-- ==== Sys2Proof/Word.lean ====
section
/-! DEFINITION. The word types of the block and its two smallest name sets: levels, bytes, the fixed widths
of rule R8 (00_scope.md), the pixel colors and the six panel commands. -/

namespace Sys2Proof

/-- One byte of the serial bus, an opcode or a payload byte (00_scope.md R8). -/
abbrev Byte := BitVec 8

/-- A 32-bit unsigned quantity: a duration in microseconds, an elapsed value, response data (R8). -/
abbrev Word := BitVec 32

/-- A 16-bit unsigned coordinate (R8). -/
abbrev Coord := BitVec 16

/-- The host request word, 40 bits (R8, 30_encoding.md R81). -/
abbrev ReqWord := BitVec 40

/-- The host response word, 36 bits (R8, 30_encoding.md R84). -/
abbrev RspWord := BitVec 36

/-- The level of a line or of the BUSY input: `true` is level 1, `false` is level 0. -/
abbrev Level := Bool

/-- The pixel color, "enumeration White, Black, Accent" (20_memory.md R52). The reserved pair (1,1) is not a
member of this type (93_implementation_defined.md U1). -/
inductive Color
  | white | black | accent
  deriving DecidableEq, Repr, Inhabited

/-- The closed set of panel commands (30_encoding.md R88, 41_command_encoder.md R142). -/
inductive PanelCmd
  | setResolution | loadWaveformTable | dataBlack | dataAccent | refresh | powerDown
  deriving DecidableEq, Repr, Inhabited

end Sys2Proof
end

