-- ==== Sys2Proof/Config.lean ====
section
/-! DEFINITION. The configuration record of a block (00_scope.md R6), the illustrative configuration of
95_test_vectors.md section 2, and the one value the spec leaves free after a block reset. -/

namespace Sys2Proof

/-- The flat configuration record `cfg`, one field for each row of the table of 00_scope.md R6. Durations are
microseconds. What makes a record legal is `Config.wf` (R7). -/
structure Config where
  width                : Nat
  height               : Nat
  resetPulseUs         : Nat
  busyActiveLevel      : Level
  initTimeoutUs        : Nat
  refreshTimeoutUs     : Nat
  pollDelayUs          : Nat
  waveformTable        : List Byte
  opSetResolution      : Byte
  payloadSetResolution : List Byte
  opLoadWaveform       : Byte
  opDataBlack          : Byte
  opDataAccent         : Byte
  opRefresh            : Byte
  payloadRefresh       : List Byte
  opPowerDown          : Byte
  payloadPowerDown     : List Byte
  csAssertLevel        : Level
  dcCommandLevel       : Level
  rstAssertLevel       : Level
  /-- timing only: no rule depends on it (R6, R13) -/
  sckMaxHz             : Nat
  deriving DecidableEq, Repr

/-- `CFG_EX` of 95_test_vectors.md section 2: invented by the spec for its vectors, the constants of no real
panel. DESIGN CHOICE (log entry 1): the configuration `State.reset` carries. -/
def Config.illustrative : Config where
  width := 3
  height := 3
  resetPulseUs := 10000
  busyActiveLevel := true
  initTimeoutUs := 5000
  refreshTimeoutUs := 20000
  pollDelayUs := 1000
  waveformTable := [0x11, 0x22, 0x33]
  opSetResolution := 0xA1
  payloadSetResolution := [0x03, 0x03]
  opLoadWaveform := 0xA2
  opDataBlack := 0xB0
  opDataAccent := 0xB1
  opRefresh := 0xC0
  payloadRefresh := []
  opPowerDown := 0xD0
  payloadPowerDown := [0xA5]
  csAssertLevel := false
  dcCommandLevel := false
  rstAssertLevel := false
  sckMaxHz := 4000000

/-- The level of DC after the n-th block reset of a run: "unspecified: any level" (10_state.md R34,
93_implementation_defined.md U7). A free value: it has no body, so nothing can be proved of it (log entry 2). -/
opaque Config.freeDcLevel : Nat → Level

end Sys2Proof
end

