-- ==== Sys2Proof/Syntax.lean ====
section
/-! DEFINITION. The instruction set: one constructor for each row of spec/opcode_table.json, the seven host
operations (30_encoding.md R82) and the six panel commands (R88). Operands are already of the type that
holds their legal values only, so there is no ill-formed instruction (see WellFormed.lean). -/

namespace Sys2Proof

/-- The operations of the block. -/
inductive Instr
  | init                                             -- INIT (43_display_protocol.md R162)
  | update                                           -- UPDATE (R163)
  | powerOff                                         -- POWER_OFF (R164)
  | setPixel (x y : Coord) (color : Color)           -- SET_PIXEL (40_framebuffer.md R111)
  | clear (color : Color)                            -- CLEAR (R113)
  | getPixel (x y : Coord)                           -- GET_PIXEL (R112)
  | waitReady (t : Word)                             -- WAIT_READY (42_busy_gate.md R155)
  | setResolution                                    -- SetResolution (41_command_encoder.md R134)
  | loadWaveformTable                                -- LoadWaveformTable (R135)
  | beginDataTransferBlack                           -- BeginDataTransfer(black) (R136)
  | beginDataTransferAccent                          -- BeginDataTransfer(accent) (R137)
  | refresh                                          -- Refresh (R138)
  | powerDown                                        -- PowerDown (R139)
  deriving DecidableEq, Repr

end Sys2Proof
end

