-- ==== Sys2Proof/WellFormed.lean ====
section
/-! DEFINITION. Well-formedness. An instruction needs no check of its own: the reserved color 0b11 and every
other reserved encoding is no term of `Instr` (30_encoding.md R83, R90). What has to be checked is the
configuration (00_scope.md R7): a block is defined for a well-formed configuration only. -/

namespace Sys2Proof

/-- The dimensions are legal: 1 to 65535 each (R6; zero is "invalid", 40_framebuffer.md R110). -/
def Config.dimensionsOk (c : Config) : Bool :=
  decide (1 ≤ c.width) && decide (c.width ≤ 65535) && decide (1 ≤ c.height) && decide (c.height ≤ 65535)

/-- The durations are legal: at most 2^31 - 1 microseconds each (R6). -/
def Config.durationsOk (c : Config) : Bool :=
  decide (c.resetPulseUs ≤ 2147483647) && decide (c.initTimeoutUs ≤ 2147483647)
    && decide (c.refreshTimeoutUs ≤ 2147483647) && decide (c.pollDelayUs ≤ 2147483647)

/-- A configuration is well formed when every field is inside the type the table of R6 gives it (R7). The
poll delay is at least 1 (42_busy_gate.md R152) and the serial clock bound is positive. -/
def Config.wf (c : Config) : Bool :=
  c.dimensionsOk && c.durationsOk && decide (1 ≤ c.pollDelayUs) && decide (1 ≤ c.sckMaxHz)

/-- The opcode byte of a panel command (30_encoding.md R88). -/
def Config.opcode (c : Config) : PanelCmd → Byte
  | .setResolution => c.opSetResolution
  | .loadWaveformTable => c.opLoadWaveform
  | .dataBlack => c.opDataBlack
  | .dataAccent => c.opDataAccent
  | .refresh => c.opRefresh
  | .powerDown => c.opPowerDown

/-- The six opcode bytes differ from one another. NOT part of `Config.wf`, since the spec states no such
condition: it is what makes an opcode byte on the wire name one command (used by `decodeCommand` only). -/
def Config.opcodesDistinct (c : Config) : Bool :=
  decide [c.opSetResolution, c.opLoadWaveform, c.opDataBlack, c.opDataAccent, c.opRefresh, c.opPowerDown].Nodup

end Sys2Proof
end

