-- ==== Sys2Proof/Decode.lean ====
section
/-! DEFINITION. The decoder, total on all 2^40 request words and all 256 opcode bytes and rejecting by name,
and after it the encoder written from the same tables (30_encoding.md R81, R82, R83, R88, R90, R94). -/

namespace Sys2Proof

/-- Why a word is no instruction: the four cases of 30_encoding.md R90 for a request word, and an opcode byte
that no command of the configuration has (R88: "the set is closed"). -/
inductive IllegalEncoding
  | reservedOp       -- R90 (a): op 0x0 or 0x8 to 0xF
  | reservedField    -- R90 (b): rsv is not 0b00
  | unusedField      -- R90 (c): a field the operation does not take is not zero
  | reservedColor    -- R90 (d): color 0b11 in SET_PIXEL or CLEAR
  | unknownOpcode    -- an opcode byte outside the six of R88
  deriving DecidableEq, Repr

/-- The fields of a request word (30_encoding.md R81). -/
structure ReqFields where
  op    : BitVec 4
  rsv   : BitVec 2
  color : BitVec 2
  x     : Coord
  y     : Coord
  deriving DecidableEq, Repr

/-- The fields at their places: 39:36, 35:34, 33:32, 31:16, 15:0 (R81). -/
def ReqFields.ofWord (w : ReqWord) : ReqFields where
  op := w.extractLsb' 36 4
  rsv := w.extractLsb' 34 2
  color := w.extractLsb' 32 2
  x := w.extractLsb' 16 16
  y := w.extractLsb' 0 16

/-- The word with the given fields (R81; the left operand of `++` is the more significant). -/
def ReqFields.toWord (f : ReqFields) : ReqWord := f.op ++ (f.rsv ++ (f.color ++ (f.x ++ f.y)))

/-- `max_timeout` of WAIT_READY: bits 31:0 of the same word (R81, R86). -/
def reqTimeout (w : ReqWord) : Word := w.extractLsb' 0 32

/-- The code of a color (30_encoding.md R83): bit 0 is the black-plane bit, bit 1 the accent-plane bit. -/
def Color.code : Color → BitVec 2
  | .white => 0b00
  | .black => 0b01
  | .accent => 0b10

/-- The color of a code; 0b11 is reserved (R83). -/
def colorOfCode (b : BitVec 2) : Option Color :=
  if b = 0b00 then some .white
  else if b = 0b01 then some .black
  else if b = 0b10 then some .accent
  else none

/-- Decoding of a request word (30_encoding.md R82, R90, R94). -/
def decodeRequest (w : ReqWord) : Except IllegalEncoding Instr :=
  let f := ReqFields.ofWord w
  if f.rsv ≠ 0 then .error .reservedField
  else match f.op.toNat with
    | 0x1 => if f.color = 0 ∧ f.x = 0 ∧ f.y = 0 then .ok .init else .error .unusedField
    | 0x2 => if f.color = 0 ∧ f.x = 0 ∧ f.y = 0 then .ok .update else .error .unusedField
    | 0x3 => if f.color = 0 ∧ f.x = 0 ∧ f.y = 0 then .ok .powerOff else .error .unusedField
    | 0x4 => match colorOfCode f.color with
      | some c => .ok (.setPixel f.x f.y c)
      | none => .error .reservedColor
    | 0x5 => if f.x = 0 ∧ f.y = 0 then
        match colorOfCode f.color with
        | some c => .ok (.clear c)
        | none => .error .reservedColor
      else .error .unusedField
    | 0x6 => if f.color = 0 then .ok (.getPixel f.x f.y) else .error .unusedField
    | 0x7 => if f.color = 0 then .ok (.waitReady (reqTimeout w)) else .error .unusedField
    | _ => .error .reservedOp

/-- The instruction of a panel command. -/
def PanelCmd.instr : PanelCmd → Instr
  | .setResolution => .setResolution
  | .loadWaveformTable => .loadWaveformTable
  | .dataBlack => .beginDataTransferBlack
  | .dataAccent => .beginDataTransferAccent
  | .refresh => .refresh
  | .powerDown => .powerDown

/-- The panel commands in the order of the table of R88. -/
def PanelCmd.all : List PanelCmd :=
  [.setResolution, .loadWaveformTable, .dataBlack, .dataAccent, .refresh, .powerDown]

/-- The panel command an opcode byte names under a configuration: the first of the table of R88 with that
byte (log entry 3: the spec does not say that the six bytes differ). -/
def decodeCommand (c : Config) (b : Byte) : Except IllegalEncoding PanelCmd :=
  match PanelCmd.all.find? (fun p => c.opcode p == b) with
  | some p => .ok p
  | none => .error .unknownOpcode

/-- What an instruction is written as: a request word of the host port, or an opcode byte of the serial bus
(30_encoding.md R80). -/
inductive Code
  | request (w : ReqWord)
  | command (b : Byte)
  deriving DecidableEq, Repr

/-- The decoder on both formats. -/
def decode (c : Config) : Code → Except IllegalEncoding Instr
  | .request w => decodeRequest w
  | .command b => (decodeCommand c b).map PanelCmd.instr

/-- A request word that takes no coordinate operand. -/
def noCoords (op : BitVec 4) (color : BitVec 2) : ReqWord :=
  ({ op := op, rsv := 0, color := color, x := 0, y := 0 } : ReqFields).toWord

/-- The encoder (30_encoding.md R82, R88). -/
def encode (c : Config) : Instr → Code
  | .init => .request (noCoords 0x1 0)
  | .update => .request (noCoords 0x2 0)
  | .powerOff => .request (noCoords 0x3 0)
  | .setPixel x y col =>
    .request ({ op := 0x4, rsv := 0, color := col.code, x := x, y := y } : ReqFields).toWord
  | .clear col => .request (noCoords 0x5 col.code)
  | .getPixel x y => .request ({ op := 0x6, rsv := 0, color := 0, x := x, y := y } : ReqFields).toWord
  | .waitReady t => .request ((0x70 : BitVec 8) ++ t)
  | .setResolution => .command c.opSetResolution
  | .loadWaveformTable => .command c.opLoadWaveform
  | .beginDataTransferBlack => .command c.opDataBlack
  | .beginDataTransferAccent => .command c.opDataAccent
  | .refresh => .command c.opRefresh
  | .powerDown => .command c.opPowerDown

/-- One row of the table of 30_encoding.md R82: a word selects the row when `w AND mask = match`, the row's
extra condition holds, and it then stands for the row's operation. -/
structure TableRow where
  mask    : ReqWord
  pattern : ReqWord
  /-- the extra condition `color ≠ 0b11` -/
  noReservedColor : Bool
  deriving DecidableEq, Repr

/-- The seven rows of R82 in its order, as printed there. -/
def requestTable : List TableRow :=
  [⟨0xFFFFFFFFFF, 0x1000000000, false⟩, ⟨0xFFFFFFFFFF, 0x2000000000, false⟩,
   ⟨0xFFFFFFFFFF, 0x3000000000, false⟩, ⟨0xFC00000000, 0x4000000000, true⟩,
   ⟨0xFCFFFFFFFF, 0x5000000000, true⟩, ⟨0xFF00000000, 0x6000000000, false⟩,
   ⟨0xFF00000000, 0x7000000000, false⟩]

/-- A word selects a row of R82. -/
def TableRow.selects (r : TableRow) (w : ReqWord) : Bool :=
  (w &&& r.mask) == r.pattern && !(r.noReservedColor && (ReqFields.ofWord w).color == 0b11)

/-- The row of R82 of a host operation; a panel command has no row there. -/
def Instr.tableRow : Instr → Option TableRow
  | .init => requestTable[0]?
  | .update => requestTable[1]?
  | .powerOff => requestTable[2]?
  | .setPixel _ _ _ => requestTable[3]?
  | .clear _ => requestTable[4]?
  | .getPixel _ _ => requestTable[5]?
  | .waitReady _ => requestTable[6]?
  | .setResolution => none
  | .loadWaveformTable => none
  | .beginDataTransferBlack => none
  | .beginDataTransferAccent => none
  | .refresh => none
  | .powerDown => none

/-- The instruction the decoder reads from a word whose bits are numbered as spec/opcode_table.json numbers
them. A 40-bit row is a request word, bit 39 the most significant. An 8-bit row is a panel command's opcode
byte; its value is a field of `cfg`, so it is read under the configuration `State.reset` carries (log entry 3). -/
def decodeTableWord (nbits w : Nat) : Option Instr :=
  if nbits = 40 then (decodeRequest (BitVec.ofNat 40 w)).toOption
  else if nbits = 8 then ((decodeCommand Config.illustrative (BitVec.ofNat 8 w)).map PanelCmd.instr).toOption
  else none

end Sys2Proof
end

