-- ==== Sys2Proof/Machine/State.lean ====
section
/-! DEFINITION. The state of the block as plain data: every row of the table of 10_state.md R20 under its own
name, then the model's own fields (configuration, environment inputs, host inputs, event trace). With it the
event alphabet (00_scope.md R11), the faults and refusals, and the state after reset (R34). -/

namespace Sys2Proof.Machine

/-- The tag of PanelState (10_state.md R24). Codes 5 to 7 do not exist in this type (U3). -/
inductive PanelState
  | uninitialized | ready | refreshing | poweredDown | faulted
  deriving DecidableEq, Repr

/-- The payload of `Faulted(reason)` (10_state.md R25). -/
inductive FaultReason
  | none | resetTimeout | configTimeout | refreshTimeout | busFault
  deriving DecidableEq, Repr

/-- The status of a response (30_encoding.md R84). -/
inductive Status
  | ok | outOfBounds | invalidState | timeout | busFault | illegalRequest
  deriving DecidableEq, Repr

/-- The three output lines (00_scope.md R11). -/
inductive Line
  | cs | dc | rst
  deriving DecidableEq, Repr

/-- The transport's answer to one byte write (00_scope.md R11). -/
inductive BusAnswer
  | ok | err
  deriving DecidableEq, Repr

/-- The event alphabet of 00_scope.md R11. A sample event carries the level the panel answered; the answer
to a bus write shows in what follows it. -/
inductive Event
  | line (l : Line) (v : Level)              -- the block writes a level to an output line
  | bus (b : Byte)                           -- the block writes a byte on the serial bus
  | delay (us : Nat)                         -- the block asks the delay provider to wait
  | sample (v : Level)                       -- the block samples BUSY
  | rsp (status : Status) (data : Word)      -- the block answers the host request
  deriving DecidableEq, Repr

/-- The byte sequence that is the payload of the Command being transmitted (10_state.md R20, CMD_SRC). -/
inductive CmdSrc
  | setResolutionPayload | waveformTable | blackPlane | accentPlane | refreshPayload | powerDownPayload
  deriving DecidableEq, Repr

/-- The busy waits: the three of the protocol (60_exceptions.md R183) and the host's own WAIT_READY. -/
inductive Wait
  | resetReady | configReady | refreshReady | host
  deriving DecidableEq, Repr

/-- `PHASE`, the sequencer's position in the pseudocode of the operation in progress (10_state.md R23). Each
position but `idle` names the next micro-step. The positions `waitStart` and `finishPowerOff` hold the
pseudocode lines that make no call (log entry 7). -/
inductive Phase
  | idle                       -- no operation in progress
  | pulseStart                 -- INIT: ASSERT(RESET)
  | pulseHold                  -- INIT: DelayUs(cfg.reset_pulse_us)
  | pulseEnd                   -- INIT: DEASSERT(RESET)
  | waitStart (w : Wait)       -- STATE <- Refreshing (UPDATE only), TIMEOUT <- T, ELAPSED <- 0
  | waitSample (w : Wait)      -- SampleBusy and the test that follows it
  | waitDelay (w : Wait)       -- DelayUs(cfg.poll_delay_us), ELAPSED <- ELAPSED + cfg.poll_delay_us
  | command (c : PanelCmd)     -- frame, then SetLine(DC, DC_COMMAND)
  | txSelect                   -- ASSERT(CS)
  | txOpcode                   -- BusWrite(CMD_OP)
  | txData                     -- SetLine(DC, DC_DATA)
  | txByte                     -- BusWrite(payload[CMD_IDX])
  | txEnd                      -- DEASSERT(CS)
  | txAbort                    -- bus_fault: DEASSERT(CS), Faulted(BusFault), raise
  | finishPowerOff             -- POWER_OFF: STATE <- PoweredDown, Rsp
  deriving DecidableEq, Repr

/-- The seven scratch registers of 10_state.md R20, by name. -/
inductive ScratchReg
  | req | elapsed | timeout | acc | cmdOp | cmdSrc | cmdIdx
  deriving DecidableEq, Repr

/-- A Command: "opcode byte plus a variable-length payload", transient (41_command_encoder.md R130). -/
structure Command where
  opcode  : Byte
  payload : List Byte
  deriving DecidableEq, Repr

/-- What the host can do to an idle block (00_scope.md R14): present a request word, or assert the block reset. -/
inductive HostInput
  | request (w : ReqWord)
  | reset
  deriving DecidableEq, Repr

/-- What the environment will answer (00_scope.md R9, U17): the levels of BUSY at the next samples and the
answers to the next byte writes, oldest first, and what each of the two answers from there on for ever. Every
finite run of the block under any environment is a run under one of these (log entry 4). -/
structure Env where
  busy     : List Level
  busyRest : Level
  bus      : List BusAnswer
  busRest  : BusAnswer
  deriving DecidableEq, Repr

/-- The pixel store `FB` (10_state.md R29): pairs of a pixel address and the color of that cell, addresses
strictly rising, no White entry; an unlisted cell is White, the reset contents (log entry 5). -/
abbrev Memory := List (Nat × Color)

/-- The state of the block. The first fifteen fields are the fifteen rows of 10_state.md R20, in its order. -/
structure State where
  state       : PanelState          -- STATE
  faultReason : FaultReason         -- FAULT_REASON
  busyFlag    : Bool                -- BUSY_FLAG
  phase       : Phase               -- PHASE
  cs          : Level               -- CS, the level driven
  dc          : Level               -- DC, the level driven
  rst         : Level               -- RESET, the level driven
  fb          : Memory              -- FB
  req         : Option ReqWord      -- REQ; the scratch registers hold no value outside an operation (R22, R34)
  elapsed     : Option Word         -- ELAPSED
  timeout     : Option Word         -- TIMEOUT
  acc         : Option Word         -- ACC
  cmdOp       : Option Byte         -- CMD_OP
  cmdSrc      : Option CmdSrc       -- CMD_SRC
  cmdIdx      : Option Nat          -- CMD_IDX
  /-- the model's own: the configuration, an argument of the model (00_scope.md R6), written by no step -/
  cfg         : Config
  /-- the model's own: the answers the environment will give (inputs, 10_state.md R30) -/
  env         : Env
  /-- the model's own: what the host does next, oldest first; the head is at the port now -/
  host        : List HostInput
  /-- the model's own: the events emitted so far, oldest first (00_scope.md R11) -/
  trace       : List Event
  /-- the model's own: how many free DC levels have been drawn (log entry 2) -/
  dcDraws     : Nat
  deriving DecidableEq, Repr

/-- Why the machine stops with a fault. -/
inductive Fault
  /-- A micro-step reads a scratch register that no step of the current operation has written: "a model that
  keeps these registers must fault on such a read" (10_state.md R22). Raised by the sequencer
  (Machine/Sequencer.lean) only, and only in states no run reaches. Safe. -/
  | scratchUnwritten (r : ScratchReg)
  deriving DecidableEq, Repr

/-- Why the machine refuses to go on. -/
inductive Refusal
  /-- An instruction the model gives no meaning to. Raised by exec's arms only; no arm raises it now. Safe. -/
  | notModelled (mnemonic : String)
  /-- The block reset is asserted while an operation is in progress: "this spec gives it no meaning, and a
  model refuses it" (70_reset_and_hazards.md R212, U6). Raised by `State.blockReset`. Safe. -/
  | resetDuringOperation
  /-- Construction with a zero width or height (40_framebuffer.md R110, 60_exceptions.md R186). Raised by
  `State.construct` only. Safe. -/
  | invalidDimensions
  /-- Construction with a configuration otherwise not well formed (00_scope.md R7, 42_busy_gate.md R152).
  Raised by `State.construct` only. Safe. -/
  | illFormedConfiguration
  deriving DecidableEq, Repr

/-- The state after reset of a block with configuration `c` whose DC line rests at `dc` (10_state.md R34):
CS and RESET at the complement of their assert levels, the store all White, the scratch registers without
value. The environment and the host's inputs are given from outside. -/
def State.resetWith (c : Config) (dc : Level) (env : Env) (host : List HostInput) : State where
  state := .uninitialized
  faultReason := .none
  busyFlag := false
  phase := .idle
  cs := !c.csAssertLevel
  dc := dc
  rst := !c.rstAssertLevel
  fb := []
  req := none
  elapsed := none
  timeout := none
  acc := none
  cmdOp := none
  cmdSrc := none
  cmdIdx := none
  cfg := c
  env := env
  host := host
  trace := []
  dcDraws := 0

/-- An environment in which the panel is idle (level `idle`) at every sample and no byte write fails. -/
def Env.quiet (idle : Level) : Env where
  busy := []
  busyRest := idle
  bus := []
  busRest := .ok

/-- The machine right after reset (10_state.md R34). The spec leaves the configuration, the level of DC and
the environment open: DESIGN CHOICE (log entries 1, 2, 4), the illustrative configuration, DC at level 0, a
panel that is idle at every sample, no failing byte write, no host input. -/
def State.reset : State :=
  State.resetWith Config.illustrative false (Env.quiet (!Config.illustrative.busyActiveLevel)) []

end Sys2Proof.Machine
end

