-- ==== Sys2Proof/Machine/Operands.lean ====
section
/-! DEFINITION. Operand assembly (30_encoding.md R86), the derived quantities of the configuration, the plane
bits of a color, and the numeric codes of states, reasons and statuses (10_state.md R24, R25; R84, R85). -/

namespace Sys2Proof.Machine

/-- `BUSY_IDLE`, the level of BUSY that means ready (42_busy_gate.md R151). -/
def busyIdle (c : Config) : Level := !c.busyActiveLevel

/-- `DC_DATA` (00_scope.md R15). -/
def dcData (c : Config) : Level := !c.dcCommandLevel

/-- CS deasserted (00_scope.md R15). -/
def csIdle (c : Config) : Level := !c.csAssertLevel

/-- RESET deasserted (00_scope.md R15). -/
def rstIdle (c : Config) : Level := !c.rstAssertLevel

/-- `RB = ceil(W / 8)`, the row byte width (20_memory.md R53, 40_framebuffer.md R117). -/
def rowBytes (c : Config) : Nat := (c.width + 7) / 8

/-- The number of cells of the pixel store (20_memory.md R50). -/
def cellCount (c : Config) : Nat := c.width * c.height

/-- The pixel address `a = y·W + x`, computed without wrap (20_memory.md R51). -/
def pixelAddr (c : Config) (x y : Coord) : Nat := y.toNat * c.width + x.toNat

/-- The bounds check of the pixel operations (20_memory.md R58). -/
def inBounds (c : Config) (x y : Coord) : Bool := decide (x.toNat < c.width) && decide (y.toNat < c.height)

/-- The black-plane bit of a color (40_framebuffer.md R114). -/
def blackBit : Color → Bool
  | .white => false
  | .black => true
  | .accent => false

/-- The accent-plane bit of a color (40_framebuffer.md R114). -/
def accentBit : Color → Bool
  | .white => false
  | .black => false
  | .accent => true

/-- A configured duration as a 32-bit value (00_scope.md R8). -/
def durationWord (us : Nat) : Word := BitVec.ofNat 32 us

/-- The code of `STATE` (10_state.md R24). -/
def PanelState.code : PanelState → BitVec 3
  | .uninitialized => 0
  | .ready => 1
  | .refreshing => 2
  | .poweredDown => 3
  | .faulted => 4

/-- The code of `FAULT_REASON` (10_state.md R25). -/
def FaultReason.code : FaultReason → BitVec 3
  | .none => 0
  | .resetTimeout => 1
  | .configTimeout => 2
  | .refreshTimeout => 3
  | .busFault => 4

/-- The code of a response status (30_encoding.md R84). -/
def Status.code : Status → BitVec 4
  | .ok => 0x0
  | .outOfBounds => 0x1
  | .invalidState => 0x2
  | .timeout => 0x3
  | .busFault => 0x4
  | .illegalRequest => 0x5

/-- The response word: `rsp[35:32] = status`, `rsp[31:0] = data` (30_encoding.md R84). -/
def rspWord (st : Status) (data : Word) : RspWord := st.code ++ data

/-- The data of an InvalidState response: required state in bits 2:0, current STATE in 6:4, current
FAULT_REASON in 10:8, the rest 0 (30_encoding.md R85, 43_display_protocol.md R165). -/
def invalidStateData (required current : PanelState) (reason : FaultReason) : Word :=
  (0 : BitVec 21) ++ (reason.code ++ ((0 : BitVec 1) ++ (current.code ++ ((0 : BitVec 1) ++ required.code))))

/-- The data of a Timeout response: the reason code in bits 2:0 (30_encoding.md R85). -/
def timeoutData (reason : FaultReason) : Word := (0 : BitVec 29) ++ reason.code

/-- The data of a GET_PIXEL response: the color code, zero extended (40_framebuffer.md R112). -/
def pixelData (c : Color) : Word := (0 : BitVec 30) ++ c.code

/-- The byte sequence a panel command takes its payload from (30_encoding.md R88). -/
def cmdSrcOf : PanelCmd → CmdSrc
  | .setResolution => .setResolutionPayload
  | .loadWaveformTable => .waveformTable
  | .dataBlack => .blackPlane
  | .dataAccent => .accentPlane
  | .refresh => .refreshPayload
  | .powerDown => .powerDownPayload

/-- The one panel command that takes its payload from a byte sequence. -/
def cmdOfSrc : CmdSrc → PanelCmd
  | .setResolutionPayload => .setResolution
  | .waveformTable => .loadWaveformTable
  | .blackPlane => .dataBlack
  | .accentPlane => .dataAccent
  | .refreshPayload => .refresh
  | .powerDownPayload => .powerDown

/-- The pseudocode position after a panel command, each being sent in one place only (41_command_encoder.md
R142, 43_display_protocol.md R162, R163, R164). -/
def phaseAfter : PanelCmd → Phase
  | .setResolution => .command .loadWaveformTable
  | .loadWaveformTable => .waitStart .configReady
  | .dataBlack => .command .dataAccent
  | .dataAccent => .command .refresh
  | .refresh => .waitStart .refreshReady
  | .powerDown => .finishPowerOff

/-- The reason a timed-out wait of the protocol leaves in `FAULT_REASON` (60_exceptions.md R183); the host's
own wait has none. -/
def timeoutReason : Wait → FaultReason
  | .resetReady => .resetTimeout
  | .configReady => .configTimeout
  | .refreshReady => .refreshTimeout
  | .host => .none

end Sys2Proof.Machine
end

