-- ==== Sys2Proof/Machine/Flags.lean ====
section
/-! DEFINITION. The block has no condition codes (10_state.md R26). Its one flag is BUSY_FLAG, set at acceptance
and cleared at the response; here stand the clearing of the scratch registers and the flag and the status output. -/

namespace Sys2Proof.Machine

/-- The status output: `STATUS[2:0] = STATE`, `STATUS[5:3] = FAULT_REASON`, `STATUS[6] = BUSY_FLAG`
(10_state.md R28). A port, readable at any time, without side effect. -/
def State.statusOut (s : State) : BitVec 7 :=
  BitVec.ofBool s.busyFlag ++ (s.faultReason.code ++ s.state.code)

/-- The scratch registers hold no value (10_state.md R22, R34). -/
def State.clearScratch (s : State) : State :=
  { s with req := none, elapsed := none, timeout := none, acc := none,
           cmdOp := none, cmdSrc := none, cmdIdx := none }

/-- "After `transmit` returns, `CMD_OP`, `CMD_SRC`, `CMD_IDX` are scratch again" (41_command_encoder.md R130):
DEDUCED (log entry 9), they hold no value from there on. -/
def State.clearCommand (s : State) : State :=
  { s with cmdOp := none, cmdSrc := none, cmdIdx := none }

/-- Request acceptance: `REQ <- w`, `BUSY_FLAG <- 1` (30_encoding.md R94); no other scratch register has been
written by the new operation yet. -/
def State.accept (w : ReqWord) (s : State) : State :=
  { s.clearScratch with req := some w, busyFlag := true }

/-- The end of every operation: `BUSY_FLAG <- 0`, `PHASE <- IDLE` (30_encoding.md R94, 60_exceptions.md R189). -/
def State.toIdle (s : State) : State :=
  { s.clearScratch with busyFlag := false, phase := .idle }

end Sys2Proof.Machine
end

