-- ==== Sys2Proof/Machine/Ops.lean ====
section
/-! DEFINITION. The operations every meaning is made of: the pixel store, the four calls that emit an event
(SetLine, BusWrite, DelayUs, SampleBusy), the response, the entry into Faulted (60_exceptions.md R189), the
block reset and construction (70_reset_and_hazards.md R210, 40_framebuffer.md R110). -/

namespace Sys2Proof.Machine

/-! ## The pixel store -/

/-- `MemRead(a, 2)` (20_memory.md R52): an unlisted cell is White. -/
def Memory.read (a : Nat) : Memory → Color
  | [] => .white
  | (b, v) :: m => if a = b then v else Memory.read a m

/-- `MemWrite(a, 2, v)` (20_memory.md R52), keeping addresses rising and White cells unlisted. -/
def Memory.write (a : Nat) (v : Color) : Memory → Memory
  | [] => if v = .white then [] else [(a, v)]
  | (b, u) :: m =>
    if a < b then
      if v = .white then (b, u) :: m else (a, v) :: (b, u) :: m
    else if a = b then
      if v = .white then m else (a, v) :: m
    else (b, u) :: Memory.write a v m

/-- Every cell `0 .. cells - 1` holds `v`: the result of the loop of CLEAR (40_framebuffer.md R113). -/
def Memory.fill (cells : Nat) (v : Color) : Memory :=
  if v = .white then [] else (List.range cells).map (fun a => (a, v))

/-- The canonical form of a store of `cells` cells: addresses strictly rising and below `cells`, no White entry. -/
abbrev Memory.wf (cells : Nat) (m : Memory) : Prop :=
  m.Pairwise (fun p q => p.1 < q.1) ∧ ∀ p ∈ m, p.1 < cells ∧ p.2 ≠ .white

/-! ## The environment -/

/-- The level of BUSY at the k-th sample from now. -/
def Env.busyAt (e : Env) (k : Nat) : Level := e.busy.getD k e.busyRest

/-- The answer to the k-th byte write from now. -/
def Env.busAt (e : Env) (k : Nat) : BusAnswer := e.bus.getD k e.busRest

/-- The environment after n samples. -/
def Env.dropBusy (e : Env) (n : Nat) : Env := { e with busy := e.busy.drop n }

/-- The environment after n byte writes. -/
def Env.dropBus (e : Env) (n : Nat) : Env := { e with bus := e.bus.drop n }

/-! ## The calls that emit an event (00_scope.md R11, R15) -/

/-- `emit e`. -/
def State.emit (e : Event) (s : State) : State := { s with trace := s.trace ++ [e] }

/-- `SetLine(l, v)`: the line register takes the level; the event is recorded even when it already holds it. -/
def State.setLine (l : Line) (v : Level) (s : State) : State :=
  match l with
  | .cs => { s with cs := v, trace := s.trace ++ [.line .cs v] }
  | .dc => { s with dc := v, trace := s.trace ++ [.line .dc v] }
  | .rst => { s with rst := v, trace := s.trace ++ [.line .rst v] }

/-- `BusWrite(b)`: one byte on the bus, answered by the transport. -/
def State.busWrite (b : Byte) (s : State) : BusAnswer × State :=
  (s.env.busAt 0, { s with env := s.env.dropBus 1, trace := s.trace ++ [.bus b] })

/-- `DelayUs(n)`. The delay provider returns (log entry 8). -/
def State.delayUs (n : Nat) (s : State) : State := s.emit (.delay n)

/-- `SampleBusy()`: asks the panel anew every time (10_state.md R30). -/
def State.sampleBusy (s : State) : Level × State :=
  (s.env.busyAt 0, { s with env := s.env.dropBusy 1, trace := s.trace ++ [.sample (s.env.busyAt 0)] })

/-! ## Responses and faults -/

/-- `Rsp(status, data)`: the response, then `BUSY_FLAG <- 0` and `PHASE <- IDLE` (30_encoding.md R94). -/
def State.respond (st : Status) (data : Word) (s : State) : State := (s.emit (.rsp st data)).toIdle

/-- The entry into Faulted, shared by every fault: `STATE <- Faulted`, `FAULT_REASON <- reason`, the response,
back to idle (60_exceptions.md R189 steps 2 to 4). Everything else keeps its value. There is no return
operation (R191): only the block reset leaves Faulted. -/
def State.takeFault (reason : FaultReason) (st : Status) (data : Word) (s : State) : State :=
  { s with state := .faulted, faultReason := reason }.respond st data

/-- A timed-out wait of INIT or UPDATE (43_display_protocol.md R162, R163). -/
def State.takeTimeout (reason : FaultReason) (s : State) : State :=
  s.takeFault reason .timeout (timeoutData reason)

/-- `bus_fault`: CS is deasserted, then Faulted(BusFault) (41_command_encoder.md R133, R189 step 1). -/
def State.takeBusFault (s : State) : State :=
  (s.setLine .cs (csIdle s.cfg)).takeFault .busFault .busFault 0

/-- The rejection of a protocol operation in a wrong state: only its response (43_display_protocol.md R165). -/
def State.rejectState (required : PanelState) (s : State) : State :=
  s.respond .invalidState (invalidStateData required s.state s.faultReason)

/-! ## Block reset and construction -/

/-- The block reset (70_reset_and_hazards.md R210): while idle it puts every piece of state at its value of
10_state.md R34 and emits nothing; DC takes a free level. During an operation it is refused (R212). The
configuration, the environment, the host's further inputs and the trace are no state of the block. -/
def State.blockReset (s : State) : Host.Outcome State Fault Refusal :=
  if s.busyFlag then .refused .resetDuringOperation
  else .next { State.resetWith s.cfg (Config.freeDcLevel s.dcDraws) s.env s.host with
                 trace := s.trace, dcDraws := s.dcDraws + 1 }

/-- `new(width, height)` and the construction of the block (40_framebuffer.md R110, 00_scope.md R7): refused
for a configuration that is not well formed, zero dimensions under a name of their own (R186). -/
def State.construct (c : Config) (dc : Level) (env : Env) (host : List HostInput) :
    Host.Outcome State Fault Refusal :=
  if c.width = 0 ∨ c.height = 0 then .refused .invalidDimensions
  else if c.wf then .next (State.resetWith c dc env host)
  else .refused .illFormedConfiguration

end Sys2Proof.Machine
end

