-- ==== Sys2Proof/Machine/BusyGate.lean ====
section
/-! DEFINITION. The BusyGate (42_busy_gate.md): the bounded busy poll and the meaning of WAIT_READY. -/

namespace Sys2Proof.Machine

/-- The result of `wait_ready` (42_busy_gate.md R150). -/
inductive WaitResult
  | ok (elapsed : Word)
  | timedOut
  deriving DecidableEq, Repr

/-- The loop of R150 from `ELAPSED = e` on. The comparison is on naturals, so it cannot wrap (the 33-bit
compare). `fuel` bounds the number of samples; `waitReady` gives `T div poll_delay + 1`, the bound of R153,
which the loop does not use up for a well-formed configuration. -/
def waitLoop (bound : Word) : Nat → Word → State → WaitResult × State
  | 0, _, s => (.timedOut, s)
  | fuel + 1, e, s =>
    match s.sampleBusy with
    | (v, s1) =>
      if v = busyIdle s.cfg then (.ok e, s1)
      else if e.toNat + s.cfg.pollDelayUs > bound.toNat then (.timedOut, s1)
      else waitLoop bound fuel (e + durationWord s.cfg.pollDelayUs) (s1.delayUs s.cfg.pollDelayUs)

/-- `wait_ready(max_timeout)` (42_busy_gate.md R150): it emits samples and delays only and changes no
architectural state (R156). -/
def waitReady (bound : Word) (s : State) : WaitResult × State :=
  waitLoop bound (bound.toNat / s.cfg.pollDelayUs + 1) 0 s

/-- WAIT_READY (42_busy_gate.md R155): admitted in every state; a timeout leaves STATE and FAULT_REASON. -/
def execWaitReady (t : Word) (s : State) : Host.Outcome State Fault Refusal :=
  match waitReady t s with
  | (.ok e, s1) => .next (s1.respond .ok e)
  | (.timedOut, s1) => .next (s1.respond .timeout 0)

end Sys2Proof.Machine
end

