-- ==== Sys2Proof/Machine/FrameBuffer.lean ====
section
/-! DEFINITION. The FrameBuffer (40_framebuffer.md): the bit-plane serializer and the meanings of SET_PIXEL,
GET_PIXEL and CLEAR. No operation here emits a Line, Bus, Delay or Sample event, and none reads STATE (R119). -/

namespace Sys2Proof.Machine

/-- The channel bit of the pixel in column `x` of row `y`; a column past the row's end is a padding position
and its bit is 0 (20_memory.md R55). -/
def channelBit (c : Config) (bit : Color → Bool) (m : Memory) (y x : Nat) : Bool :=
  decide (x < c.width) && bit (m.read (y * c.width + x))

/-- Byte `q` of row `y` of a plane: lane `7 - j` holds the channel bit of pixel `(8q + j, y)` (20_memory.md
R54, 40_framebuffer.md R118). -/
def planeByte (c : Config) (bit : Color → Bool) (m : Memory) (y q : Nat) : Byte :=
  (List.range 8).foldl
    (fun b j => if channelBit c bit m y (8 * q + j) then b ||| ((1 : Byte) <<< (7 - j)) else b) 0

/-- A bit-plane: row-major, MSB first, each row padded to a byte (20_memory.md R53, R54). Derived from the store
at each use and never stored (R67). -/
def plane (c : Config) (bit : Color → Bool) (m : Memory) : List Byte :=
  (List.range c.height).flatMap (fun y => (List.range (rowBytes c)).map (planeByte c bit m y))

/-- `black_plane()` (40_framebuffer.md R115). -/
def blackPlane (c : Config) (m : Memory) : List Byte := plane c blackBit m

/-- `accent_plane()` (40_framebuffer.md R116). -/
def accentPlane (c : Config) (m : Memory) : List Byte := plane c accentBit m

/-- SET_PIXEL (40_framebuffer.md R111). -/
def execSetPixel (x y : Coord) (color : Color) (s : State) : Host.Outcome State Fault Refusal :=
  if inBounds s.cfg x y then
    .next ({ s with fb := s.fb.write (pixelAddr s.cfg x y) color }.respond .ok 0)
  else .next (s.respond .outOfBounds 0)

/-- GET_PIXEL (40_framebuffer.md R112). -/
def execGetPixel (x y : Coord) (s : State) : Host.Outcome State Fault Refusal :=
  if inBounds s.cfg x y then
    .next (s.respond .ok (pixelData (s.fb.read (pixelAddr s.cfg x y))))
  else .next (s.respond .outOfBounds 0)

/-- CLEAR (40_framebuffer.md R113). -/
def execClear (color : Color) (s : State) : Host.Outcome State Fault Refusal :=
  .next ({ s with fb := Memory.fill (cellCount s.cfg) color }.respond .ok 0)

end Sys2Proof.Machine
end

