-- ==== Sys2Proof/Machine/CommandEncoder.lean ====
section
/-! DEFINITION. The CommandEncoder (41_command_encoder.md): frame, transmit, and the meanings of the six panel
commands. The host cannot request a command; the sequencer stands at one inside INIT, UPDATE or POWER_OFF, and
the meaning of a command runs its transaction whole (R141) and moves PHASE on. -/

namespace Sys2Proof.Machine

/-- The bytes a payload source stands for (30_encoding.md R88); the planes are computed from the store. -/
def payloadOf (c : Config) (m : Memory) : CmdSrc → List Byte
  | .setResolutionPayload => c.payloadSetResolution
  | .waveformTable => c.waveformTable
  | .blackPlane => blackPlane c m
  | .accentPlane => accentPlane c m
  | .refreshPayload => c.payloadRefresh
  | .powerDownPayload => c.payloadPowerDown

/-- `frame(opcode, payload)`: "pure construction, no I/O" (41_command_encoder.md R130). -/
def frame (opcode : Byte) (payload : List Byte) : Command := { opcode := opcode, payload := payload }

/-- The Command of a panel command (R134 to R139). -/
def commandOf (c : Config) (m : Memory) (p : PanelCmd) : Command :=
  frame (c.opcode p) (payloadOf c m (cmdSrcOf p))

/-- Byte writes in list order up to the first `err` (41_command_encoder.md R131). -/
def sendBytes : List Byte → State → BusAnswer × State
  | [], s => (.ok, s)
  | b :: bs, s =>
    match s.busWrite b with
    | (.err, s1) => (.err, s1)
    | (.ok, s1) => sendBytes bs s1

/-- The payload part of a transaction: nothing when it is empty, else DC to data and then the bytes. -/
def sendPayload (bytes : List Byte) (s : State) : BusAnswer × State :=
  match bytes with
  | [] => (.ok, s)
  | b :: bs => sendBytes (b :: bs) (s.setLine .dc (dcData s.cfg))

/-- `transmit(command)` (41_command_encoder.md R131). The answer is `err` at the first byte write the transport
fails; `bus_fault` is then the caller's next line. -/
def transmit (cmd : Command) (s : State) : BusAnswer × State :=
  match ((s.setLine .dc s.cfg.dcCommandLevel).setLine .cs s.cfg.csAssertLevel).busWrite cmd.opcode with
  | (.err, s1) => (.err, s1)
  | (.ok, s1) =>
    match sendPayload cmd.payload s1 with
    | (.err, s2) => (.err, s2)
    | (.ok, s2) => (.ok, s2.setLine .cs (csIdle s2.cfg))

/-- `transmit(frame(opcode, payload))` for a panel command (R134 to R139). -/
def sendCommand (p : PanelCmd) (s : State) : BusAnswer × State := transmit (commandOf s.cfg s.fb p) s

/-- One panel command as the sequencer runs it: its transaction, then the next pseudocode position; a bus error
ends the host operation (R133). -/
def runCommand (p : PanelCmd) (s : State) : State :=
  match sendCommand p s with
  | (.err, s1) => s1.takeBusFault
  | (.ok, s1) => { s1.clearCommand with phase := phaseAfter p }

/-- SetResolution (41_command_encoder.md R134). -/
def execSetResolution (s : State) : Host.Outcome State Fault Refusal := .next (runCommand .setResolution s)

/-- LoadWaveformTable (R135). -/
def execLoadWaveformTable (s : State) : Host.Outcome State Fault Refusal := .next (runCommand .loadWaveformTable s)

/-- BeginDataTransfer(black) (R136). -/
def execBeginDataTransferBlack (s : State) : Host.Outcome State Fault Refusal := .next (runCommand .dataBlack s)

/-- BeginDataTransfer(accent) (R137). -/
def execBeginDataTransferAccent (s : State) : Host.Outcome State Fault Refusal := .next (runCommand .dataAccent s)

/-- Refresh (R138). -/
def execRefresh (s : State) : Host.Outcome State Fault Refusal := .next (runCommand .refresh s)

/-- PowerDown (R139). -/
def execPowerDown (s : State) : Host.Outcome State Fault Refusal := .next (runCommand .powerDown s)

end Sys2Proof.Machine
end

