-- ==== Sys2Proof/Machine/DisplayProtocol.lean ====
section
/-! DEFINITION. The DisplayProtocol (43_display_protocol.md): the meanings of INIT, UPDATE and POWER_OFF, each
in the shape of the pseudocode of its rule, read top to bottom. -/

namespace Sys2Proof.Machine

/-- The reset pulse: one delay between the two writes of RESET (43_display_protocol.md R162, 70_reset_and_hazards.md R215). -/
def resetPulse (s : State) : State :=
  let s1 := (s.setLine .rst s.cfg.rstAssertLevel).delayUs s.cfg.resetPulseUs
  s1.setLine .rst (rstIdle s1.cfg)

/-- INIT after its state check (43_display_protocol.md R162): pulse, reset-ready wait, SetResolution,
LoadWaveformTable, init-config-ready wait, Ready. -/
def initBody (s : State) : State :=
  match waitReady (durationWord s.cfg.initTimeoutUs) (resetPulse s) with
  | (.timedOut, s1) => s1.takeTimeout .resetTimeout
  | (.ok e1, s1) =>
    match sendCommand .setResolution s1 with
    | (.err, s2) => s2.takeBusFault
    | (.ok, s2) =>
      match sendCommand .loadWaveformTable s2 with
      | (.err, s3) => s3.takeBusFault
      | (.ok, s3) =>
        match waitReady (durationWord s3.cfg.initTimeoutUs) s3 with
        | (.timedOut, s4) => s4.takeTimeout .configTimeout
        | (.ok e2, s4) => { s4 with state := .ready }.respond .ok (e1 + e2)

/-- INIT (43_display_protocol.md R162). -/
def execInit (s : State) : Host.Outcome State Fault Refusal :=
  if s.state = .uninitialized then .next (initBody s)
  else .next (s.rejectState .uninitialized)

/-- UPDATE after its state check (43_display_protocol.md R163): black plane, accent plane, Refresh, then
Refreshing until the refresh-ready wait ends. -/
def updateBody (s : State) : State :=
  match sendCommand .dataBlack s with
  | (.err, s1) => s1.takeBusFault
  | (.ok, s1) =>
    match sendCommand .dataAccent s1 with
    | (.err, s2) => s2.takeBusFault
    | (.ok, s2) =>
      match sendCommand .refresh s2 with
      | (.err, s3) => s3.takeBusFault
      | (.ok, s3) =>
        match waitReady (durationWord s3.cfg.refreshTimeoutUs) { s3 with state := .refreshing } with
        | (.timedOut, s4) => s4.takeTimeout .refreshTimeout
        | (.ok e, s4) => { s4 with state := .ready }.respond .ok e

/-- UPDATE (43_display_protocol.md R163). -/
def execUpdate (s : State) : Host.Outcome State Fault Refusal :=
  if s.state = .ready then .next (updateBody s)
  else .next (s.rejectState .ready)

/-- POWER_OFF after its state check (43_display_protocol.md R164). -/
def powerOffBody (s : State) : State :=
  match sendCommand .powerDown s with
  | (.err, s1) => s1.takeBusFault
  | (.ok, s1) => { s1 with state := .poweredDown }.respond .ok 0

/-- POWER_OFF (43_display_protocol.md R164). -/
def execPowerOff (s : State) : Host.Outcome State Fault Refusal :=
  if s.state = .ready then .next (powerOffBody s)
  else .next (s.rejectState .ready)

end Sys2Proof.Machine
end

