-- ==== Sys2Proof/Machine/Dispatch.lean ====
section
/-! DEFINITION. One arm per constructor of Instr, each one direct call of its meaning. -/

namespace Sys2Proof.Machine

def exec (i : Instr) (s : State) : Host.Outcome State Fault Refusal :=
  match i with
  | .init => Sys2Proof.Machine.execInit s
  | .update => Sys2Proof.Machine.execUpdate s
  | .powerOff => Sys2Proof.Machine.execPowerOff s
  | .setPixel x y color => Sys2Proof.Machine.execSetPixel x y color s
  | .clear color => Sys2Proof.Machine.execClear color s
  | .getPixel x y => Sys2Proof.Machine.execGetPixel x y s
  | .waitReady t => Sys2Proof.Machine.execWaitReady t s
  | .setResolution => Sys2Proof.Machine.execSetResolution s
  | .loadWaveformTable => Sys2Proof.Machine.execLoadWaveformTable s
  | .beginDataTransferBlack => Sys2Proof.Machine.execBeginDataTransferBlack s
  | .beginDataTransferAccent => Sys2Proof.Machine.execBeginDataTransferAccent s
  | .refresh => Sys2Proof.Machine.execRefresh s
  | .powerDown => Sys2Proof.Machine.execPowerDown s

end Sys2Proof.Machine
end

