-- ==== Sys2Proof/Machine/Sequencer.lean ====
section
/-! DEFINITION. The sequencer at its own grain (10_state.md R23): PHASE and the scratch registers at work, one
SetLine, BusWrite, DelayUs or SampleBusy call a micro-step. `exec` runs a host operation whole; this file gives
the states in between (BUSY_FLAG = 1, Refreshing, DC and CS inside a transaction). That the two agree is an
obligation of Certificates/Slice0/Obligations.lean. -/

namespace Sys2Proof.Machine

/-- A read of a scratch register: a fault where it holds no value. 10_state.md R22 asks for it: "a model that keeps
these registers must fault on such a read, not return zero". -/
def readScratch {α : Type} (r : ScratchReg) (v : Option α)
    (k : α → Host.Outcome State Fault Refusal) : Host.Outcome State Fault Refusal :=
  match v with
  | none => .fault (.scratchUnwritten r)
  | some a => k a

/-- The first micro-step's position after acceptance (10_state.md R23), with the checks that come before any
event: decode has been done, then the state check (60_exceptions.md R188). An operation without events is
complete at once. -/
def startOp (i : Instr) (s : State) : Host.Outcome State Fault Refusal :=
  match i with
  | .init =>
    if s.state = .uninitialized then .next { s with acc := some 0, phase := .pulseStart }
    else .next (s.rejectState .uninitialized)
  | .update =>
    if s.state = .ready then .next { s with phase := .command .dataBlack }
    else .next (s.rejectState .ready)
  | .powerOff =>
    if s.state = .ready then .next { s with phase := .command .powerDown }
    else .next (s.rejectState .ready)
  | .setPixel x y color => execSetPixel x y color s
  | .clear color => execClear color s
  | .getPixel x y => execGetPixel x y s
  | .waitReady _ => .next { s with phase := .waitStart .host }
  | .setResolution => .next { s with phase := .command .setResolution }
  | .loadWaveformTable => .next { s with phase := .command .loadWaveformTable }
  | .beginDataTransferBlack => .next { s with phase := .command .dataBlack }
  | .beginDataTransferAccent => .next { s with phase := .command .dataAccent }
  | .refresh => .next { s with phase := .command .refresh }
  | .powerDown => .next { s with phase := .command .powerDown }

/-- `max_timeout` of a wait: configured for the protocol's waits, the operand field of REQ for the host's
(43_display_protocol.md R162, R163; 42_busy_gate.md R155). -/
def waitBound (w : Wait) (s : State) : Option Word :=
  match w with
  | .resetReady => some (durationWord s.cfg.initTimeoutUs)
  | .configReady => some (durationWord s.cfg.initTimeoutUs)
  | .refreshReady => some (durationWord s.cfg.refreshTimeoutUs)
  | .host => s.req.map reqTimeout

/-- The lines before the poll loop: `STATE <- Refreshing` in UPDATE, `TIMEOUT <- T`, `ELAPSED <- 0`. -/
def microWaitStart (w : Wait) (s : State) : Host.Outcome State Fault Refusal :=
  readScratch .req (waitBound w s) fun t =>
    .next { s with state := if w = .refreshReady then .refreshing else s.state,
                   timeout := some t, elapsed := some 0, phase := .waitSample w }

/-- The lines after a wait that ended `Ok(e)`: ACC, then the operation's next command or its response. After the
reset-ready wait of INIT no line writes ELAPSED or TIMEOUT, and the spec does not say what they hold from there on:
DEDUCED (log entry 9), they keep the values this operation has written to them. -/
def microWaitOk (w : Wait) (e : Word) (s : State) : Host.Outcome State Fault Refusal :=
  match w with
  | .resetReady => readScratch .acc s.acc fun a =>
    .next { s with acc := some (a + e), phase := .command .setResolution }
  | .configReady => readScratch .acc s.acc fun a =>
    .next ({ s with acc := some (a + e), state := .ready }.respond .ok (a + e))
  | .refreshReady => .next ({ s with acc := some e, state := .ready }.respond .ok e)
  | .host => .next ({ s with acc := some e }.respond .ok e)

/-- The lines after a wait that ended `TimedOut` (60_exceptions.md R183; R155 for the host's own wait). -/
def microWaitTimedOut (w : Wait) (s : State) : State :=
  match w with
  | .host => s.respond .timeout 0
  | _ => s.takeTimeout (timeoutReason w)

/-- One sample and the test that follows it (42_busy_gate.md R150). -/
def microWaitSample (w : Wait) (s : State) : Host.Outcome State Fault Refusal :=
  readScratch .elapsed s.elapsed fun e =>
  readScratch .timeout s.timeout fun t =>
    match s.sampleBusy with
    | (v, s1) =>
      if v = busyIdle s.cfg then microWaitOk w e s1
      else if e.toNat + s.cfg.pollDelayUs > t.toNat then .next (microWaitTimedOut w s1)
      else .next { s1 with phase := .waitDelay w }

/-- One poll delay, counted in ELAPSED (42_busy_gate.md R150). -/
def microWaitDelay (w : Wait) (s : State) : Host.Outcome State Fault Refusal :=
  readScratch .elapsed s.elapsed fun e =>
    .next { s.delayUs s.cfg.pollDelayUs with
              elapsed := some (e + durationWord s.cfg.pollDelayUs), phase := .waitSample w }

/-- `frame` into the Command registers, then DC to the command level (41_command_encoder.md R130, R131). -/
def microCommand (p : PanelCmd) (s : State) : State :=
  { s.setLine .dc s.cfg.dcCommandLevel with
      cmdOp := some (s.cfg.opcode p), cmdSrc := some (cmdSrcOf p), cmdIdx := some 0, phase := .txSelect }

/-- The opcode byte (41_command_encoder.md R131); `err` goes to `bus_fault` (R133). -/
def microOpcode (s : State) : Host.Outcome State Fault Refusal :=
  readScratch .cmdOp s.cmdOp fun op =>
  readScratch .cmdSrc s.cmdSrc fun src =>
    match s.busWrite op with
    | (.err, s1) => .next { s1 with phase := .txAbort }
    | (.ok, s1) =>
      .next { s1 with phase := if payloadOf s.cfg s.fb src = [] then .txEnd else .txData }

/-- The end of a transaction: DEASSERT(CS), the Command registers scratch again, the next pseudocode position. -/
def microEnd (s : State) : Host.Outcome State Fault Refusal :=
  readScratch .cmdSrc s.cmdSrc fun src =>
    .next { (s.setLine .cs (csIdle s.cfg)).clearCommand with phase := phaseAfter (cmdOfSrc src) }

/-- One payload byte (41_command_encoder.md R131); past the last one the loop is left. -/
def microByte (s : State) : Host.Outcome State Fault Refusal :=
  readScratch .cmdSrc s.cmdSrc fun src =>
  readScratch .cmdIdx s.cmdIdx fun i =>
    match (payloadOf s.cfg s.fb src)[i]? with
    | none => microEnd s
    | some b =>
      match s.busWrite b with
      | (.err, s1) => .next { s1 with phase := .txAbort }
      | (.ok, s1) =>
        .next { s1 with cmdIdx := some (i + 1),
                        phase := if i + 1 < (payloadOf s.cfg s.fb src).length then .txByte else .txEnd }

/-- One micro-step of the operation in progress (10_state.md R23); an idle block stays as it is. -/
def microStep (s : State) : Host.Outcome State Fault Refusal :=
  match s.phase with
  | .idle => .next s
  | .pulseStart => .next { s.setLine .rst s.cfg.rstAssertLevel with phase := .pulseHold }
  | .pulseHold => .next { s.delayUs s.cfg.resetPulseUs with phase := .pulseEnd }
  | .pulseEnd => .next { s.setLine .rst (rstIdle s.cfg) with phase := .waitStart .resetReady }
  | .waitStart w => microWaitStart w s
  | .waitSample w => microWaitSample w s
  | .waitDelay w => microWaitDelay w s
  | .command p => .next (microCommand p s)
  | .txSelect => .next { s.setLine .cs s.cfg.csAssertLevel with phase := .txOpcode }
  | .txOpcode => microOpcode s
  | .txData => .next { s.setLine .dc (dcData s.cfg) with phase := .txByte }
  | .txByte => microByte s
  | .txEnd => microEnd s
  | .txAbort => .next s.takeBusFault
  | .finishPowerOff => .next ({ s with state := .poweredDown }.respond .ok 0)

/-- `k` micro-steps, stopping at a fault or a refusal. -/
def microRun : Nat → State → Host.Outcome State Fault Refusal
  | 0, s => .next s
  | k + 1, s =>
    match microStep s with
    | .next s1 => microRun k s1
    | .fault r => .fault r
    | .refused r => .refused r

end Sys2Proof.Machine
end

