-- ==== Sys2Proof/Machine/Step.lean ====
section
/-! DEFINITION. One step of the machine. An idle block takes the host's next input: the block reset, or a
request, which is accepted, decoded and run to its response (30_encoding.md R94, 20_memory.md R64). A block with
an operation in progress runs on: a panel command it stands at as one transaction, anything else by one
micro-step. -/

namespace Sys2Proof.Machine

/-- A request word taken from the port by an idle block (30_encoding.md R94): accepted, decoded, then its
meaning, or IllegalRequest with no other effect (R90). -/
def runRequest (w : ReqWord) (s : State) : Host.Outcome State Fault Refusal :=
  match decodeRequest w with
  | .error _ => .next ((s.accept w).respond .illegalRequest 0)
  | .ok i => exec i (s.accept w)

/-- The operation in progress goes on. -/
def advance (s : State) : Host.Outcome State Fault Refusal :=
  match s.phase with
  | .command p => exec p.instr s
  | _ => microStep s

/-- One step. The reset input at the port is seen first (and refused during an operation, R212); a request is
taken only while BUSY_FLAG is 0 and stays pending otherwise (R94, U16); a block with nothing to do waits. -/
def step (s : State) : Host.Outcome State Fault Refusal :=
  match s.host with
  | .reset :: rest => State.blockReset { s with host := rest }
  | .request w :: rest =>
    if s.phase = .idle then
      if s.busyFlag then .next s else runRequest w { s with host := rest }
    else advance s
  | [] => advance s

/-- `s` with an instruction placed where `step` takes its next one: a 40-bit word at the head of the host port
of an idle block; an 8-bit opcode byte as the panel command the sequencer stands at (log entry 3). -/
def State.withFetchWord (s : State) (nbits w : Nat) : State :=
  if nbits = 40 then
    { s with busyFlag := false, phase := .idle, host := .request (BitVec.ofNat 40 w) :: s.host }
  else if nbits = 8 then
    match decodeCommand s.cfg (BitVec.ofNat 8 w) with
    | .ok p => { s with busyFlag := true, phase := .command p, host := s.host.dropWhile (· == .reset) }
    | .error _ => s
  else s

end Sys2Proof.Machine
end

