-- ==== Sys2Proof/Machine/Reference.lean ====
section
/-! DEFINITION. The loops of 40_framebuffer.md as its pseudocode writes them. The meanings use closed forms;
that the two agree is stated in Certificates/Slice0/Obligations.lean. -/

namespace Sys2Proof.Machine

/-- The loop of CLEAR (40_framebuffer.md R113): one MemWrite for each cell, in address order. -/
def clearLoop (cells : Nat) (v : Color) (m : Memory) : Memory :=
  (List.range cells).foldl (fun m a => m.write a v) m

/-- The inner statement of the plane loops (R115): set the bit of pixel `(x, y)` when its channel bit is 1. -/
def planeLoopPixel (c : Config) (bit : Color → Bool) (m : Memory) (y : Nat) (out : List Byte) (x : Nat) :
    List Byte :=
  if bit (m.read (y * c.width + x)) then
    out.modify (y * rowBytes c + x / 8) (fun b => b ||| ((1 : Byte) <<< (7 - x % 8)))
  else out

/-- The loop of `black_plane` and `accent_plane` (R115, R116): rows, then columns, from all-zero bytes. -/
def planeLoop (c : Config) (bit : Color → Bool) (m : Memory) : List Byte :=
  (List.range c.height).foldl
    (fun out y => (List.range c.width).foldl (planeLoopPixel c bit m y) out)
    (List.replicate (rowBytes c * c.height) 0)

end Sys2Proof.Machine
end

