-- ==== Sys2Proof/Machine/Trace.lean ====
section
/-! DEFINITION. Event sequences and their views: what the rules say an operation emits, written out by closed
forms (42_busy_gate.md R153, 41_command_encoder.md R131, 43_display_protocol.md R162), what the panel observes
of a trace (00_scope.md R11), the framing discipline of a trace (R140), and the bit-level waveform of one byte
(R132). Statements compare the meanings' traces with these. -/

namespace Sys2Proof.Machine

/-! ## Event sequences of the rules -/

/-- `j` busy samples, each followed by a poll delay (42_busy_gate.md R153). -/
def busyPolls (c : Config) : Nat → List Event
  | 0 => []
  | j + 1 => .sample c.busyActiveLevel :: .delay c.pollDelayUs :: busyPolls c j

/-- A wait whose j-th sample is the first idle one (R153). -/
def readyEvents (c : Config) (j : Nat) : List Event := busyPolls c j ++ [.sample (busyIdle c)]

/-- A wait that times out after `n + 1` busy samples and `n` delays (R153). -/
def timeoutEvents (c : Config) (n : Nat) : List Event := busyPolls c n ++ [.sample c.busyActiveLevel]

/-- The reset pulse (43_display_protocol.md R162). -/
def pulseEvents (c : Config) : List Event :=
  [.line .rst c.rstAssertLevel, .delay c.resetPulseUs, .line .rst (rstIdle c)]

/-- The bytes of a Command in wire order (20_memory.md R56). -/
def Command.wire (cmd : Command) : List Byte := cmd.opcode :: cmd.payload

/-- The beginning of a transaction up to and including its first `n` byte writes (41_command_encoder.md R131):
DC to command, CS asserted, the opcode, and DC to data once before the first payload byte. -/
def sentEvents (c : Config) (cmd : Command) (n : Nat) : List Event :=
  [.line .dc c.dcCommandLevel, .line .cs c.csAssertLevel] ++ (if n = 0 then [] else [.bus cmd.opcode])
    ++ (if n ≤ 1 then [] else .line .dc (dcData c) :: (cmd.payload.take (n - 1)).map .bus)

/-- A whole transaction (R131): all its bytes, then CS deasserted. -/
def transmitEvents (c : Config) (cmd : Command) : List Event :=
  sentEvents c cmd (cmd.payload.length + 1) ++ [.line .cs (csIdle c)]

/-! ## What the panel observes -/

/-- For each byte written: the byte, the level of DC and the level of CS at that moment (00_scope.md R11),
from the levels `dc` and `cs` on. -/
def panelBytes : (dc cs : Level) → List Event → List (Byte × Level × Level)
  | _, _, [] => []
  | dc, cs, .bus b :: es => (b, dc, cs) :: panelBytes dc cs es
  | _, cs, .line .dc v :: es => panelBytes v cs es
  | dc, _, .line .cs v :: es => panelBytes dc v es
  | dc, cs, .line .rst _ :: es => panelBytes dc cs es
  | dc, cs, .delay _ :: es => panelBytes dc cs es
  | dc, cs, .sample _ :: es => panelBytes dc cs es
  | dc, cs, .rsp _ _ :: es => panelBytes dc cs es

/-- The level history of RESET (00_scope.md R11). -/
def resetHistory : List Event → List Level
  | [] => []
  | .line .rst v :: es => v :: resetHistory es
  | .line .dc _ :: es => resetHistory es
  | .line .cs _ :: es => resetHistory es
  | .bus _ :: es => resetHistory es
  | .delay _ :: es => resetHistory es
  | .sample _ :: es => resetHistory es
  | .rsp _ _ :: es => resetHistory es

/-- The level of an output line after a sequence of events, from the level `v` on (10_state.md R27: a line keeps
the last level written). -/
def lineAfter (l : Line) : Level → List Event → Level
  | v, [] => v
  | v, .line l1 v1 :: es => lineAfter l (if l1 = l then v1 else v) es
  | v, .bus _ :: es => lineAfter l v es
  | v, .delay _ :: es => lineAfter l v es
  | v, .sample _ :: es => lineAfter l v es
  | v, .rsp _ _ :: es => lineAfter l v es

/-- The bytes sent with DC at the command level, in order: the opcodes (30_encoding.md R87). -/
def commandBytes (c : Config) (dc cs : Level) (es : List Event) : List Byte :=
  ((panelBytes dc cs es).filter (fun p => p.2.1 == c.dcCommandLevel)).map (·.1)

/-- Whether an event touches the panel or takes time: every event but a response (00_scope.md R11, "never
touches the bus"). -/
def Event.isHardware : Event → Bool
  | .rsp _ _ => false
  | .line _ _ => true
  | .bus _ => true
  | .delay _ => true
  | .sample _ => true

/-- Whether an event writes to the panel: a line or a byte (42_busy_gate.md R156). -/
def Event.isWrite : Event → Bool
  | .line _ _ => true
  | .bus _ => true
  | .delay _ => false
  | .sample _ => false
  | .rsp _ _ => false

/-- Whether an event is a byte on the bus. -/
def Event.isBus : Event → Bool
  | .bus _ => true
  | .line _ _ => false
  | .delay _ => false
  | .sample _ => false
  | .rsp _ _ => false

/-! ## The framing discipline (41_command_encoder.md R140, R141) -/

/-- Where a trace stands with respect to CS and DC. -/
inductive Framing
  | deselected         -- CS deasserted
  | selected           -- CS asserted with DC at the command level, no byte sent yet
  | opcodeSent         -- the opcode has been sent, DC still at the command level
  | dataPhase          -- DC at the data level after the opcode
  deriving DecidableEq, Repr

/-- One event under the framing discipline, from the current framing and DC level: `none` where R140 or R141
forbids it. While CS is asserted only the transaction's own events are allowed. -/
def Framing.next (c : Config) : Framing → Level → Event → Option (Framing × Level)
  | .deselected, _, .line .dc v => some (.deselected, v)
  | .deselected, dc, .line .cs v =>
    if v = csIdle c then some (.deselected, dc)
    else if dc = c.dcCommandLevel then some (.selected, dc) else none
  | .deselected, dc, .line .rst _ => some (.deselected, dc)
  | .deselected, _, .bus _ => none
  | .deselected, dc, .delay _ => some (.deselected, dc)
  | .deselected, dc, .sample _ => some (.deselected, dc)
  | .deselected, dc, .rsp _ _ => some (.deselected, dc)
  | .selected, dc, .bus _ => some (.opcodeSent, dc)
  | .opcodeSent, dc, .line .cs v => if v = csIdle c then some (.deselected, dc) else none
  | .opcodeSent, _, .line .dc v => if v = dcData c then some (.dataPhase, v) else none
  | .dataPhase, dc, .bus _ => some (.dataPhase, dc)
  | .dataPhase, dc, .line .cs v => if v = csIdle c then some (.deselected, dc) else none
  | _, _, _ => none

/-- A whole event sequence under the framing discipline. -/
def Framing.run (c : Config) : Framing → Level → List Event → Option (Framing × Level)
  | f, dc, [] => some (f, dc)
  | f, dc, e :: es =>
    match Framing.next c f dc e with
    | none => none
    | some (f1, dc1) => Framing.run c f1 dc1 es

/-! ## The waveform of one byte (41_command_encoder.md R132) -/

/-- The levels of the two serial pins at one moment. -/
structure WireSample where
  sck  : Level
  mosi : Level
  deriving DecidableEq, Repr

/-- One bit: MOSI driven while SCK is 0, SCK raised (the leading edge), SCK lowered. -/
def bitWave (v : Bool) : List WireSample := [⟨false, v⟩, ⟨true, v⟩, ⟨false, v⟩]

/-- One byte, bit 7 first (R132, 20_memory.md R57; general knowledge GK1 of the spec). -/
def byteWave (b : Byte) : List WireSample :=
  (List.range 8).flatMap (fun i => bitWave (b.getLsbD (7 - i)))

/-- The levels of MOSI at the leading edges of SCK, in time order, SCK at `prev` before. -/
def leadingEdges : (prev : Level) → List WireSample → List Level
  | _, [] => []
  | prev, w :: ws => (if w.sck && !prev then [w.mosi] else []) ++ leadingEdges w.sck ws

end Sys2Proof.Machine
end

