-- ==== Sys2Proof/Safety.lean ====
section
/-! DEFINITION. The terms claims are stated in: the invariant of the block, during and between operations
(10_state.md R25, R26, R35), what an operation leaves behind (`finished`), what an environment will answer, and
the allowed moves of STATE (43_display_protocol.md R160). -/

namespace Sys2Proof.Machine

/-! ## The invariant -/

/-- CS is asserted at the position: inside a transaction, after ASSERT(CS) (41_command_encoder.md R131). -/
def Phase.selected : Phase → Bool
  | .txOpcode | .txData | .txByte | .txEnd | .txAbort => true
  | .idle | .pulseStart | .pulseHold | .pulseEnd | .waitStart _ | .waitSample _ | .waitDelay _ | .command _
  | .txSelect | .finishPowerOff => false

/-- RESET is asserted at the position: inside the reset pulse (43_display_protocol.md R162). -/
def Phase.inPulse : Phase → Bool
  | .pulseHold | .pulseEnd => true
  | .idle | .pulseStart | .waitStart _ | .waitSample _ | .waitDelay _ | .command _ | .txSelect | .txOpcode
  | .txData | .txByte | .txEnd | .txAbort | .finishPowerOff => false

/-- The state in which a panel command is sent: Uninitialized inside INIT, Ready inside UPDATE and POWER_OFF. -/
def cmdSentIn : PanelCmd → PanelState
  | .setResolution | .loadWaveformTable => .uninitialized
  | .dataBlack | .dataAccent | .refresh | .powerDown => .ready

/-- The registers a command's operation has written before it: ACC inside INIT. -/
def cmdAccWritten (p : PanelCmd) (s : State) : Prop :=
  match p with
  | .setResolution | .loadWaveformTable => s.acc ≠ none
  | .dataBlack | .dataAccent | .refresh | .powerDown => True

/-- STATE before, and during, the poll loop of a wait (43_display_protocol.md R162, R163; R155). -/
def Wait.startsIn (w : Wait) (s : State) : Prop :=
  match w with
  | .resetReady | .configReady => s.state = .uninitialized ∧ s.acc ≠ none
  | .refreshReady => s.state = .ready
  | .host => s.state ≠ .refreshing ∧ s.req ≠ none

def Wait.pollsIn (w : Wait) (s : State) : Prop :=
  match w with
  | .resetReady | .configReady => s.state = .uninitialized ∧ s.acc ≠ none
  | .refreshReady => s.state = .refreshing
  | .host => s.state ≠ .refreshing

/-- The scratch registers hold no value. -/
def State.scratchEmpty (s : State) : Prop :=
  s.req = none ∧ s.elapsed = none ∧ s.timeout = none ∧ s.acc = none ∧ s.cmdOp = none ∧ s.cmdSrc = none
    ∧ s.cmdIdx = none

/-- What holds at each position of the sequencer: which protocol state it is reached in and which scratch
registers the operation has written by then (10_state.md R22, R23). -/
def State.positionOk (s : State) : Prop :=
  match s.phase with
  | .idle => s.state ≠ .refreshing ∧ s.scratchEmpty
  | .pulseStart | .pulseHold | .pulseEnd => s.state = .uninitialized ∧ s.acc ≠ none
  | .waitStart w => w.startsIn s
  | .waitSample w | .waitDelay w => w.pollsIn s ∧ s.elapsed ≠ none ∧ s.timeout ≠ none
  | .command p => s.state = cmdSentIn p ∧ cmdAccWritten p s
  | .txSelect | .txOpcode | .txData | .txByte | .txEnd | .txAbort =>
    ∃ p : PanelCmd, s.cmdSrc = some (cmdSrcOf p) ∧ s.cmdOp ≠ none ∧ s.cmdIdx ≠ none
      ∧ s.state = cmdSentIn p ∧ cmdAccWritten p s
  | .finishPowerOff => s.state = .ready

/-- The invariant of the block. Its first four fields are the spec's own (00_scope.md R7; 40_framebuffer.md R114
with the canonical form of the store; 10_state.md R25; R23 and R26); the line levels and the position extend
10_state.md R35 from the states between operations to the states inside one. -/
structure State.Inv (s : State) : Prop where
  cfgWf    : s.cfg.wf = true
  fbWf     : Memory.wf (cellCount s.cfg) s.fb
  reason   : s.faultReason ≠ .none ↔ s.state = .faulted
  busy     : s.busyFlag = true ↔ s.phase ≠ .idle
  csLevel  : s.cs = if s.phase.selected then s.cfg.csAssertLevel else csIdle s.cfg
  rstLevel : s.rst = if s.phase.inPulse then s.cfg.rstAssertLevel else rstIdle s.cfg
  position : s.positionOk

/-! ## What an operation leaves -/

/-- `s` after an operation that emitted `es` and is over: idle, the scratch registers without value, everything
else as in `s`. -/
def State.finished (s : State) (es : List Event) : State :=
  { s with trace := s.trace ++ es, busyFlag := false, phase := .idle, req := none, elapsed := none,
           timeout := none, acc := none, cmdOp := none, cmdSrc := none, cmdIdx := none }

/-- DC after a whole transaction: at data after a payload, at command without one (10_state.md R27). -/
def dcAfter (c : Config) (cmd : Command) : Level := if cmd.payload = [] then c.dcCommandLevel else dcData c

/-- `s` after the whole transaction of `cmd` (41_command_encoder.md R131), everything else as in `s`. -/
def State.sent (s : State) (cmd : Command) : State :=
  { s with trace := s.trace ++ transmitEvents s.cfg cmd, cs := csIdle s.cfg, dc := dcAfter s.cfg cmd,
           env := s.env.dropBus (cmd.payload.length + 1) }

/-- `s` at the byte write of `cmd` that fails, the n-th from 0 (41_command_encoder.md R133, 60_exceptions.md
R190): that byte was attempted, none after it; CS still asserted, DC as the transaction left it. -/
def State.cut (s : State) (cmd : Command) (n : Nat) : State :=
  { s with trace := s.trace ++ sentEvents s.cfg cmd (n + 1), cs := s.cfg.csAssertLevel,
           dc := if n = 0 then s.cfg.dcCommandLevel else dcData s.cfg, env := s.env.dropBus (n + 1) }

/-! ## What the environment will answer -/

/-- The next sample that finds the panel idle is the j-th from now (42_busy_gate.md R153). -/
def Env.idleAt (e : Env) (c : Config) (j : Nat) : Prop :=
  (∀ k < j, e.busyAt k = c.busyActiveLevel) ∧ e.busyAt j = busyIdle c

/-- The next `n` samples all find the panel busy. -/
def Env.busyFor (e : Env) (c : Config) (n : Nat) : Prop := ∀ k < n, e.busyAt k = c.busyActiveLevel

/-- The next `n` byte writes all succeed. -/
def Env.busOk (e : Env) (n : Nat) : Prop := ∀ k < n, e.busAt k = .ok

/-- The next byte write that fails is the n-th from now (counted from 0). -/
def Env.failsAt (e : Env) (n : Nat) : Prop := e.busOk n ∧ e.busAt n = .err

/-- The number of polls within a bound: `n = T div p` (42_busy_gate.md R153). -/
def pollCount (c : Config) (us : Nat) : Nat := us / c.pollDelayUs

/-! ## The commands of the operations (41_command_encoder.md R134 to R139, R142) -/

/-- The configuration sequence of INIT. -/
def initCommands (c : Config) : List Command :=
  [⟨c.opSetResolution, c.payloadSetResolution⟩, ⟨c.opLoadWaveform, c.waveformTable⟩]

/-- The commands of UPDATE, from the store as it stands. -/
def updateCommands (c : Config) (m : Memory) : List Command :=
  [⟨c.opDataBlack, blackPlane c m⟩, ⟨c.opDataAccent, accentPlane c m⟩, ⟨c.opRefresh, c.payloadRefresh⟩]

/-- The command of POWER_OFF. -/
def powerOffCommands (c : Config) : List Command := [⟨c.opPowerDown, c.payloadPowerDown⟩]

/-- The opcodes an operation sends, in order (41_command_encoder.md R142); a panel command sends its own. -/
def allowedOpcodes (c : Config) : Instr → List Byte
  | .init => [c.opSetResolution, c.opLoadWaveform]
  | .update => [c.opDataBlack, c.opDataAccent, c.opRefresh]
  | .powerOff => [c.opPowerDown]
  | .setPixel _ _ _ => []
  | .clear _ => []
  | .getPixel _ _ => []
  | .waitReady _ => []
  | .setResolution => [c.opSetResolution]
  | .loadWaveformTable => [c.opLoadWaveform]
  | .beginDataTransferBlack => [c.opDataBlack]
  | .beginDataTransferAccent => [c.opDataAccent]
  | .refresh => [c.opRefresh]
  | .powerDown => [c.opPowerDown]

/-- A protocol operation that was admitted and succeeded, from its states before and after
(43_display_protocol.md R160); the other operations have no state to reach. -/
def reaches (i : Instr) (before after : PanelState) : Prop :=
  match i with
  | .init => before = .uninitialized ∧ after = .ready
  | .update => before = .ready ∧ after = .ready
  | .powerOff => before = .ready ∧ after = .poweredDown
  | .setPixel _ _ _ | .clear _ | .getPixel _ _ | .waitReady _ => True
  | .setResolution | .loadWaveformTable | .beginDataTransferBlack | .beginDataTransferAccent | .refresh
  | .powerDown => True

/-- The number of bytes a list of commands puts on the bus (41_command_encoder.md R131 (f)). -/
def wireLength : List Command → Nat
  | [] => 0
  | cmd :: rest => cmd.payload.length + 1 + wireLength rest

/-- All transactions of a list of commands, in order. -/
def allEvents (c : Config) : List Command → List Event
  | [] => []
  | cmd :: rest => transmitEvents c cmd ++ allEvents c rest

/-- The events of a list of commands whose n-th byte write fails: the transactions before it whole, the failing
one up to that byte, then CS deasserted (41_command_encoder.md R133, 60_exceptions.md R190). -/
def faultEvents (c : Config) : List Command → Nat → List Event
  | [], _ => []
  | cmd :: rest, n =>
    if n < cmd.payload.length + 1 then sentEvents c cmd (n + 1) ++ [.line .cs (csIdle c)]
    else transmitEvents c cmd ++ faultEvents c rest (n - (cmd.payload.length + 1))

/-! ## The allowed moves of STATE -/

/-- One row of the transition table (43_display_protocol.md R160) at the boundaries of operations and inside
UPDATE, with the reason of a move into Faulted; the last two rows are "no move" and the block reset. -/
def allowedMove (s t : State) : Prop :=
  (s.state = .uninitialized ∧ t.state = .ready)
  ∨ (s.state = .uninitialized ∧ t.state = .faulted
      ∧ (t.faultReason = .resetTimeout ∨ t.faultReason = .configTimeout ∨ t.faultReason = .busFault))
  ∨ (s.state = .ready ∧ t.state = .faulted
      ∧ (t.faultReason = .refreshTimeout ∨ t.faultReason = .busFault))
  ∨ (s.state = .ready ∧ t.state = .poweredDown)
  ∨ (s.state = .ready ∧ t.state = .refreshing)
  ∨ (s.state = .refreshing ∧ t.state = .ready)
  ∨ (s.state = .refreshing ∧ t.state = .faulted ∧ t.faultReason = .refreshTimeout)
  ∨ (t.state = s.state ∧ t.faultReason = s.faultReason)
  ∨ (s.host.head? = some .reset ∧ t.state = .uninitialized ∧ t.faultReason = .none)

end Sys2Proof.Machine
end

