-- ==== Sys2Proof/Certificates/Slice0/Obligations.lean ====
section
/-! DEFINITION. The statements for the provers. `s.finished es` is `s` after an operation that emitted `es`, idle,
scratch registers without value (10_state.md R22, log entry 9) and everything else as in `s`; so an equation `exec i s = .next (… .finished es)`
says the result, the events and the whole frame at once. -/

open Sys2Proof Sys2Proof.Machine

/-! ## Encoding -/

/-- 30_encoding.md R81, R82, R83: a host operation's word decodes to it, every operand at every value. -/
def Obligations.RequestDecodeOfEncode : Prop :=
  ∀ (c : Config) (i : Instr) (w : ReqWord), encode c i = .request w → decodeRequest w = .ok i

/-- The other direction: a word that decodes to an operation is that operation's one encoding, so no bit of the
word is ignored (R90 (b), (c)). -/
def Obligations.RequestEncodeOfDecode : Prop :=
  ∀ (c : Config) (i : Instr) (w : ReqWord), decodeRequest w = .ok i → encode c i = .request w

/-- 30_encoding.md R88: where the six opcode bytes differ, an opcode byte decodes to its command. The premise is
the model's (log entry 3: the spec does not say that they differ). -/
def Obligations.CommandDecodeOfEncode : Prop :=
  ∀ (c : Config) (p : PanelCmd), c.opcodesDistinct = true → decode c (encode c p.instr) = .ok p.instr

/-- 30_encoding.md R82, R94: a word that decodes selects exactly one row of the table, its operation's; an illegal
word selects none. -/
def Obligations.DecoderAgreesWithMaskMatchTable : Prop :=
  ∀ w : ReqWord,
    (∀ i, decodeRequest w = .ok i →
      ∃ r, i.tableRow = some r ∧ r.selects w = true ∧ ∀ r' ∈ requestTable, r'.selects w = true → r' = r)
    ∧ (∀ e, decodeRequest w = .error e → ∀ r ∈ requestTable, r.selects w = false)

/-- 30_encoding.md R90 (a) to (d), with the fields as numbers: the illegal words are exactly these. -/
def Obligations.IllegalWordsAreTheFourCases : Prop :=
  ∀ w : ReqWord,
    (∃ e, decodeRequest w = .error e) ↔
      (let op := w.toNat / 2 ^ 36
       let rsv := w.toNat / 2 ^ 34 % 4
       let color := w.toNat / 2 ^ 32 % 4
       let x := w.toNat / 2 ^ 16 % 2 ^ 16
       let y := w.toNat % 2 ^ 16
       (op = 0 ∨ 8 ≤ op) ∨ rsv ≠ 0
       ∨ ((op = 1 ∨ op = 2 ∨ op = 3) ∧ (color ≠ 0 ∨ x ≠ 0 ∨ y ≠ 0))
       ∨ (op = 5 ∧ (x ≠ 0 ∨ y ≠ 0)) ∨ ((op = 6 ∨ op = 7) ∧ color ≠ 0)
       ∨ ((op = 4 ∨ op = 5) ∧ color = 3))

/-- Words written out bit by bit from R81 and R82 (95_test_vectors.md V1 to V9). -/
def Obligations.SampleWordsDecode : Prop :=
  decodeRequest 0b0001000000000000000000000000000000000000 = .ok .init
  ∧ decodeRequest 0b0010000000000000000000000000000000000000 = .ok .update
  ∧ decodeRequest 0b0011000000000000000000000000000000000000 = .ok .powerOff
  ∧ decodeRequest 0b0100000100000000000000010000000000000010 = .ok (.setPixel 1 2 .black)
  ∧ decodeRequest 0b0101001000000000000000000000000000000000 = .ok (.clear .accent)
  ∧ decodeRequest 0b0110000000000000000000110000000000000100 = .ok (.getPixel 3 4)
  ∧ decodeRequest 0b0111000000000000000000000000100111000100 = .ok (.waitReady 2500)

/-- 30_encoding.md R84: the places of status and data in the response word, and the status codes. -/
def Obligations.ResponseWordLayout : Prop :=
  ∀ (st : Status) (d : Word),
    (rspWord st d).toNat = 2 ^ 32 * (match st with
      | .ok => 0 | .outOfBounds => 1 | .invalidState => 2 | .timeout => 3 | .busFault => 4
      | .illegalRequest => 5) + d.toNat

/-! ## FrameBuffer -/

/-- 40_framebuffer.md R111: in bounds, the cell at `y·W + x` takes the color and every other cell keeps its own;
out of bounds, OutOfBounds and nothing else. -/
def Obligations.SetPixelWritesOneCell : Prop :=
  ∀ (s : State) (x y : Coord) (col : Color), Memory.wf (cellCount s.cfg) s.fb →
    (x.toNat < s.cfg.width ∧ y.toNat < s.cfg.height →
      ∃ m, exec (.setPixel x y col) s = .next ({ s with fb := m }.finished [Event.rsp .ok 0])
        ∧ Memory.wf (cellCount s.cfg) m
        ∧ ∀ a, m.read a = if a = y.toNat * s.cfg.width + x.toNat then col else s.fb.read a)
    ∧ (s.cfg.width ≤ x.toNat ∨ s.cfg.height ≤ y.toNat →
      exec (.setPixel x y col) s = .next (s.finished [Event.rsp .outOfBounds 0]))

/-- 40_framebuffer.md R112: the color code of the cell, or OutOfBounds; no side effect. -/
def Obligations.GetPixelReadsTheCell : Prop :=
  ∀ (s : State) (x y : Coord),
    (x.toNat < s.cfg.width ∧ y.toNat < s.cfg.height →
      exec (.getPixel x y) s = .next (s.finished [Event.rsp .ok
        (match s.fb.read (y.toNat * s.cfg.width + x.toNat) with
          | .white => 0 | .black => 1 | .accent => 2)]))
    ∧ (s.cfg.width ≤ x.toNat ∨ s.cfg.height ≤ y.toNat →
      exec (.getPixel x y) s = .next (s.finished [Event.rsp .outOfBounds 0]))

/-- 40_framebuffer.md R113: every cell takes the color and nothing else changes; the rule's law: after `CLEAR c`,
`GET_PIXEL x, y` answers `c` for every pixel. -/
def Obligations.ClearSetsEveryCell : Prop :=
  ∀ (s : State) (col : Color),
    ∃ m, exec (.clear col) s = .next ({ s with fb := m }.finished [Event.rsp .ok 0])
      ∧ Memory.wf (cellCount s.cfg) m ∧ (∀ a < cellCount s.cfg, m.read a = col)
      ∧ ∀ (t : State) (x y : Coord), t.cfg = s.cfg → t.fb = m → x.toNat < s.cfg.width → y.toNat < s.cfg.height →
          exec (.getPixel x y) t = .next (t.finished [Event.rsp .ok
            (match col with | .white => 0 | .black => 1 | .accent => 2)])

/-- 40_framebuffer.md R113, the pseudocode: CLEAR leaves what its loop of writes leaves. -/
def Obligations.ClearIsItsLoopOfWrites : Prop :=
  ∀ (s t : State) (col : Color), Memory.wf (cellCount s.cfg) s.fb → exec (.clear col) s = .next t →
    t.fb = clearLoop (cellCount s.cfg) col s.fb

/-- 20_memory.md R51: a pixel's address is a cell of the store, below 2^32, and pixels do not share cells. -/
def Obligations.PixelAddressesAreDistinctCells : Prop :=
  ∀ (c : Config) (x y x' y' : Coord), c.wf = true → inBounds c x y = true → inBounds c x' y' = true →
    pixelAddr c x y < cellCount c ∧ cellCount c < 2 ^ 32
    ∧ (pixelAddr c x y = pixelAddr c x' y' → x = x' ∧ y = y')

/-- 20_memory.md R53, R54, R55: a plane has `RB·H` bytes; pixel `(x, y)` is bit `7 - x mod 8` of byte
`y·RB + x div 8`; a position past the row's end is 0. -/
def Obligations.PlaneBitPositions : Prop :=
  ∀ (c : Config) (bit : Color → Bool) (m : Memory),
    (plane c bit m).length = (c.width + 7) / 8 * c.height
    ∧ ∀ (x y : Nat), y < c.height → x < 8 * ((c.width + 7) / 8) →
        ∃ b, (plane c bit m)[y * ((c.width + 7) / 8) + x / 8]? = some b
          ∧ b.getLsbD (7 - x % 8) = (decide (x < c.width) && bit (m.read (y * c.width + x)))

/-- 40_framebuffer.md R115, R116: the serializer gives what the loops of its pseudocode give. -/
def Obligations.PlanesAreTheirLoops : Prop :=
  ∀ (c : Config) (m : Memory), 1 ≤ c.width →
    blackPlane c m = planeLoop c (fun v => decide (v = .black)) m
    ∧ accentPlane c m = planeLoop c (fun v => decide (v = .accent)) m

/-- The law joining the two planes (40_framebuffer.md section 6): no position is 1 in both. -/
def Obligations.PlanesNeverBothSet : Prop :=
  ∀ (c : Config) (m : Memory) (k : Nat) (b a : Byte),
    (blackPlane c m)[k]? = some b → (accentPlane c m)[k]? = some a → b &&& a = 0

/-- 40_framebuffer.md R119: the framebuffer operations complete in every protocol state, emit nothing but their
response, and neither read nor write STATE, FAULT_REASON or a line: with other values of the five, the same run. -/
def Obligations.FramebufferOpsIgnoreTheProtocol : Prop :=
  ∀ (s : State) (i : Instr), (∃ x y col, i = .setPixel x y col) ∨ (∃ x y, i = .getPixel x y) ∨ (∃ col, i = .clear col) →
    ∃ t st d, exec i s = .next t ∧ t.trace = s.trace ++ [Event.rsp st d] ∧ t.env = s.env
      ∧ ∀ (p : PanelState) (r : FaultReason) (cs dc rst : Level),
          exec i { s with state := p, faultReason := r, cs := cs, dc := dc, rst := rst }
            = .next { t with state := p, faultReason := r, cs := cs, dc := dc, rst := rst }

/-! ## CommandEncoder -/

/-- 41_command_encoder.md R131, R134 to R139: with a transport that answers `ok`, each panel command sends its opcode
and its payload as one transaction, and the sequencer stands at the next position of the pseudocode (10_state.md R23).
Two clauses are the model's choice: that CMD_OP, CMD_SRC and CMD_IDX hold no value after the transaction (log entry 9;
41_command_encoder.md R130 says only that they are scratch again), and the positions `waitStart` and `finishPowerOff`
that hold the lines making no call (log entry 7). -/
def Obligations.PanelCommandsComplete : Prop :=
  ∀ (s : State) (n : Nat), s.env.busOk (n + 1) →
    (s.cfg.payloadSetResolution.length = n →
      let u := (s.sent ⟨s.cfg.opSetResolution, s.cfg.payloadSetResolution⟩).clearCommand
      exec .setResolution s = .next { u with phase := .command .loadWaveformTable })
    ∧ (s.cfg.waveformTable.length = n →
      let u := (s.sent ⟨s.cfg.opLoadWaveform, s.cfg.waveformTable⟩).clearCommand
      exec .loadWaveformTable s = .next { u with phase := .waitStart .configReady })
    ∧ ((s.cfg.width + 7) / 8 * s.cfg.height = n →
      let u := (s.sent ⟨s.cfg.opDataBlack, blackPlane s.cfg s.fb⟩).clearCommand
      exec .beginDataTransferBlack s = .next { u with phase := .command .dataAccent })
    ∧ ((s.cfg.width + 7) / 8 * s.cfg.height = n →
      let u := (s.sent ⟨s.cfg.opDataAccent, accentPlane s.cfg s.fb⟩).clearCommand
      exec .beginDataTransferAccent s = .next { u with phase := .command .refresh })
    ∧ (s.cfg.payloadRefresh.length = n →
      let u := (s.sent ⟨s.cfg.opRefresh, s.cfg.payloadRefresh⟩).clearCommand
      exec .refresh s = .next { u with phase := .waitStart .refreshReady })
    ∧ (s.cfg.payloadPowerDown.length = n →
      let u := (s.sent ⟨s.cfg.opPowerDown, s.cfg.payloadPowerDown⟩).clearCommand
      exec .powerDown s = .next { u with phase := .finishPowerOff })

/-- 41_command_encoder.md R133: at the first byte write that fails, a panel command writes no further byte,
deasserts CS, leaves DC and RESET and ends in Faulted(BusFault) with the response BusFault. -/
def Obligations.BusErrorEndsACommand : Prop :=
  ∀ (s : State) (p : PanelCmd) (n : Nat), s.env.failsAt n → n < (commandOf s.cfg s.fb p).payload.length + 1 →
    let u : State :=
      { s with
        state := .faulted
        faultReason := .busFault
        cs := csIdle s.cfg
        dc := if n = 0 then s.cfg.dcCommandLevel else dcData s.cfg
        env := s.env.dropBus (n + 1) }
    exec p.instr s = .next (u.finished
      (sentEvents s.cfg (commandOf s.cfg s.fb p) (n + 1) ++ [Event.line .cs (csIdle s.cfg), Event.rsp .busFault 0]))

/-- 41_command_encoder.md section 4, the DC invariant and the atomicity of a transaction: the events of every
request, run from an idle block in its invariant, keep the framing discipline and end deselected. -/
def Obligations.EveryRequestKeepsTheFraming : Prop :=
  ∀ (s t : State) (w : ReqWord) (rest : List HostInput), s.Inv → s.phase = .idle → s.host = .request w :: rest →
    step s = .next t →
    ∃ es, t.trace = s.trace ++ es ∧ Framing.run s.cfg .deselected s.dc es = some (.deselected, t.dc)

/-- 41_command_encoder.md R142: an operation sends opcodes of its own list only, in the list's order, and when it
succeeds all of them; the framebuffer operations and WAIT_READY send none. -/
def Obligations.CommandOrderOfTheOperations : Prop :=
  ∀ (s t : State) (i : Instr), exec i s = .next t →
    ∃ es, t.trace = s.trace ++ es
      ∧ commandBytes s.cfg s.dc s.cs es <+: allowedOpcodes s.cfg i
      ∧ (reaches i s.state t.state → commandBytes s.cfg s.dc s.cs es = allowedOpcodes s.cfg i)

/-- 41_command_encoder.md R132: eight leading edges a byte, bit 7 first, SCK at rest at 0 before and after. -/
def Obligations.ByteWaveform : Prop :=
  ∀ b : Byte, leadingEdges false (byteWave b)
      = [b.getLsbD 7, b.getLsbD 6, b.getLsbD 5, b.getLsbD 4, b.getLsbD 3, b.getLsbD 2, b.getLsbD 1, b.getLsbD 0]
    ∧ (byteWave b).head?.map (·.sck) = some false ∧ (byteWave b).getLast?.map (·.sck) = some false

/-! ## BusyGate -/

/-- 42_busy_gate.md R155 with the bound of section 3: idle first at sample j within the bound, Ok with j poll
delays; busy throughout, Timeout with data 0 after `t div p + 1` samples. STATE and everything else stay. -/
def Obligations.WaitReadyFollowsTheGate : Prop :=
  ∀ (s : State) (t : Word), s.cfg.wf = true →
    let n := t.toNat / s.cfg.pollDelayUs
    (∀ j, s.env.idleAt s.cfg j → j ≤ n →
      exec (.waitReady t) s = .next ({ s with env := s.env.dropBusy (j + 1) }.finished
        (readyEvents s.cfg j ++ [Event.rsp .ok (BitVec.ofNat 32 (j * s.cfg.pollDelayUs))])))
    ∧ (s.env.busyFor s.cfg (n + 1) →
      exec (.waitReady t) s = .next ({ s with env := s.env.dropBusy (n + 1) }.finished
        (timeoutEvents s.cfg n ++ [Event.rsp .timeout 0])))

/-- 42_busy_gate.md R156: in every state WAIT_READY completes without a Line or Bus event, changes no architectural
state, and adds nothing to what the panel receives. -/
def Obligations.WaitReadyWritesNothing : Prop :=
  ∀ (s : State) (t : Word), ∃ (u : State) (es : List Event), exec (.waitReady t) s = .next u
    ∧ u.trace = s.trace ++ es ∧ (∀ e ∈ es, e.isWrite = false)
    ∧ panelBytes s.dc s.cs es = [] ∧ resetHistory es = []
    ∧ u.state = s.state ∧ u.faultReason = s.faultReason ∧ u.cs = s.cs ∧ u.dc = s.dc ∧ u.rst = s.rst
    ∧ u.fb = s.fb ∧ u.cfg = s.cfg ∧ u.host = s.host ∧ u.env.bus = s.env.bus ∧ u.env.busRest = s.env.busRest

/-- 42_busy_gate.md R150 (c) and section 3: on success the elapsed value is a multiple of the poll delay and not
above the bound. -/
def Obligations.ElapsedWithinTheBound : Prop :=
  ∀ (s u : State) (bound e : Word), s.cfg.wf = true → waitReady bound s = (.ok e, u) →
    e.toNat ≤ bound.toNat ∧ s.cfg.pollDelayUs ∣ e.toNat

/-! ## DisplayProtocol -/

/-- 43_display_protocol.md R162, the successful run: pulse, ready wait, both configuration commands, ready wait,
Ready, response with the sum of the elapsed values. -/
def Obligations.InitReachesReady : Prop :=
  ∀ (s : State) (j k : Nat), s.cfg.wf = true → s.state = .uninitialized →
    s.env.idleAt s.cfg j → j ≤ pollCount s.cfg s.cfg.initTimeoutUs →
    (s.env.dropBusy (j + 1)).idleAt s.cfg k → k ≤ pollCount s.cfg s.cfg.initTimeoutUs →
    s.env.busOk (wireLength (initCommands s.cfg)) →
    let u : State :=
      { s with
        state := .ready
        cs := csIdle s.cfg
        rst := rstIdle s.cfg
        dc := dcAfter s.cfg ⟨s.cfg.opLoadWaveform, s.cfg.waveformTable⟩
        env := (s.env.dropBusy (j + 1 + (k + 1))).dropBus (wireLength (initCommands s.cfg)) }
    exec .init s = .next (u.finished
      (pulseEvents s.cfg ++ readyEvents s.cfg j ++ allEvents s.cfg (initCommands s.cfg) ++ readyEvents s.cfg k
        ++ [Event.rsp .ok (BitVec.ofNat 32 ((j + k) * s.cfg.pollDelayUs))]))

/-- 43_display_protocol.md R162, the two timeouts: ResetTimeout after the pulse with no byte sent, ConfigTimeout
with both commands sent whole. -/
def Obligations.InitTimeouts : Prop :=
  ∀ (s : State), s.cfg.wf = true → s.state = .uninitialized →
    let n := pollCount s.cfg s.cfg.initTimeoutUs
    (s.env.busyFor s.cfg (n + 1) →
      let u : State :=
        { s with
          state := .faulted
          faultReason := .resetTimeout
          rst := rstIdle s.cfg
          env := s.env.dropBusy (n + 1) }
      exec .init s = .next (u.finished (pulseEvents s.cfg ++ timeoutEvents s.cfg n ++ [Event.rsp .timeout 1])))
    ∧ (∀ j, s.env.idleAt s.cfg j → j ≤ n → (s.env.dropBusy (j + 1)).busyFor s.cfg (n + 1) →
      s.env.busOk (wireLength (initCommands s.cfg)) →
      let u : State :=
        { s with
          state := .faulted
          faultReason := .configTimeout
          cs := csIdle s.cfg
          rst := rstIdle s.cfg
          dc := dcAfter s.cfg ⟨s.cfg.opLoadWaveform, s.cfg.waveformTable⟩
          env := (s.env.dropBusy (j + 1 + (n + 1))).dropBus (wireLength (initCommands s.cfg)) }
      exec .init s = .next (u.finished
        (pulseEvents s.cfg ++ readyEvents s.cfg j ++ allEvents s.cfg (initCommands s.cfg) ++ timeoutEvents s.cfg n
          ++ [Event.rsp .timeout 2])))

/-- 43_display_protocol.md R163, the successful run: both planes and Refresh, then the wait, Ready again. -/
def Obligations.UpdateRefreshesThePanel : Prop :=
  ∀ (s : State) (j : Nat), s.cfg.wf = true → s.state = .ready →
    s.env.idleAt s.cfg j → j ≤ pollCount s.cfg s.cfg.refreshTimeoutUs →
    s.env.busOk (wireLength (updateCommands s.cfg s.fb)) →
    let u : State :=
      { s with
        state := .ready
        cs := csIdle s.cfg
        dc := dcAfter s.cfg ⟨s.cfg.opRefresh, s.cfg.payloadRefresh⟩
        env := (s.env.dropBusy (j + 1)).dropBus (wireLength (updateCommands s.cfg s.fb)) }
    exec .update s = .next (u.finished
      (allEvents s.cfg (updateCommands s.cfg s.fb) ++ readyEvents s.cfg j
        ++ [Event.rsp .ok (BitVec.ofNat 32 (j * s.cfg.pollDelayUs))]))

/-- 43_display_protocol.md R163, the refresh timeout: all three transactions sent, Faulted(RefreshTimeout). -/
def Obligations.UpdateTimesOut : Prop :=
  ∀ (s : State), s.cfg.wf = true → s.state = .ready →
    let n := pollCount s.cfg s.cfg.refreshTimeoutUs
    s.env.busyFor s.cfg (n + 1) → s.env.busOk (wireLength (updateCommands s.cfg s.fb)) →
    let u : State :=
      { s with
        state := .faulted
        faultReason := .refreshTimeout
        cs := csIdle s.cfg
        dc := dcAfter s.cfg ⟨s.cfg.opRefresh, s.cfg.payloadRefresh⟩
        env := (s.env.dropBusy (n + 1)).dropBus (wireLength (updateCommands s.cfg s.fb)) }
    exec .update s = .next (u.finished
      (allEvents s.cfg (updateCommands s.cfg s.fb) ++ timeoutEvents s.cfg n ++ [Event.rsp .timeout 3]))

/-- 43_display_protocol.md R164, the successful run: PowerDown, no busy wait, PoweredDown. -/
def Obligations.PowerOffPowersDown : Prop :=
  ∀ (s : State), s.state = .ready → s.env.busOk (wireLength (powerOffCommands s.cfg)) →
    let u : State :=
      { s with
        state := .poweredDown
        cs := csIdle s.cfg
        dc := dcAfter s.cfg ⟨s.cfg.opPowerDown, s.cfg.payloadPowerDown⟩
        env := s.env.dropBus (wireLength (powerOffCommands s.cfg)) }
    exec .powerOff s = .next (u.finished (allEvents s.cfg (powerOffCommands s.cfg) ++ [Event.rsp .ok 0]))

/-- 60_exceptions.md section 4 and 41_command_encoder.md R133 for the three operations: the n-th byte write fails,
everything before it has happened once, nothing after it but CS deasserted and the response; Faulted(BusFault). -/
def Obligations.BusFaultIsPrecise : Prop :=
  ∀ (s : State) (n : Nat), s.cfg.wf = true → s.env.failsAt n →
    let u (es : List Event) : State :=
      { s with
        state := .faulted
        faultReason := .busFault
        cs := csIdle s.cfg
        dc := lineAfter .dc s.dc es
        env := s.env.dropBus (n + 1) }
    (s.state = .uninitialized → n < wireLength (initCommands s.cfg) →
      ∀ j, s.env.idleAt s.cfg j → j ≤ pollCount s.cfg s.cfg.initTimeoutUs →
      let es := pulseEvents s.cfg ++ readyEvents s.cfg j ++ faultEvents s.cfg (initCommands s.cfg) n
      let v : State := { u es with rst := rstIdle s.cfg, env := (s.env.dropBusy (j + 1)).dropBus (n + 1) }
      exec .init s = .next (v.finished (es ++ [Event.rsp .busFault 0])))
    ∧ (s.state = .ready → n < wireLength (updateCommands s.cfg s.fb) →
      let es := faultEvents s.cfg (updateCommands s.cfg s.fb) n
      exec .update s = .next ((u es).finished (es ++ [Event.rsp .busFault 0])))
    ∧ (s.state = .ready → n < wireLength (powerOffCommands s.cfg) →
      let es := faultEvents s.cfg (powerOffCommands s.cfg) n
      exec .powerOff s = .next ((u es).finished (es ++ [Event.rsp .busFault 0])))

/-- 43_display_protocol.md R161, R165: in a wrong state each protocol operation answers InvalidState with the
required state, STATE and FAULT_REASON in its data, by the codes of 10_state.md R24 and R25 written as numbers, and
does nothing else. -/
def Obligations.StateCheckComesFirst : Prop :=
  ∀ (s : State),
    let current : Nat := match s.state with
      | .uninitialized => 0 | .ready => 1 | .refreshing => 2 | .poweredDown => 3 | .faulted => 4
    let reason : Nat := match s.faultReason with
      | .none => 0 | .resetTimeout => 1 | .configTimeout => 2 | .refreshTimeout => 3 | .busFault => 4
    (s.state ≠ .uninitialized → exec .init s = .next (s.finished [Event.rsp .invalidState
      (BitVec.ofNat 32 (0 + 2 ^ 4 * current + 2 ^ 8 * reason))]))
    ∧ (s.state ≠ .ready → exec .update s = .next (s.finished [Event.rsp .invalidState
      (BitVec.ofNat 32 (1 + 2 ^ 4 * current + 2 ^ 8 * reason))]))
    ∧ (s.state ≠ .ready → exec .powerOff s = .next (s.finished [Event.rsp .invalidState
      (BitVec.ofNat 32 (1 + 2 ^ 4 * current + 2 ^ 8 * reason))]))

/-- 43_display_protocol.md R160: every step from a state in the invariant moves STATE along the table or not at
all, with the table's reasons. -/
def Obligations.StateMovesAlongTheTable : Prop :=
  ∀ (s t : State), s.Inv → step s = .next t → allowedMove s t

/-- 10_state.md R36: only the block reset leaves PoweredDown or Faulted, and it takes the block to Uninitialized. -/
def Obligations.TerminalStatesAreLeftByResetOnly : Prop :=
  ∀ (s t : State), s.Inv → (s.state = .poweredDown ∨ s.state = .faulted) → step s = .next t →
    (t.state = s.state ∧ t.faultReason = s.faultReason)
    ∨ (s.host.head? = some .reset ∧ t.state = .uninitialized ∧ t.faultReason = .none)

/-- 70_reset_and_hazards.md section 4: a successful UPDATE sends `2·ceil(W/8)·H + 3 + len(payload_refresh)` bytes. -/
def Obligations.UpdateByteCount : Prop :=
  ∀ (s t : State), s.state = .ready → exec .update s = .next t → t.state = .ready →
    ∃ es, t.trace = s.trace ++ es
      ∧ es.countP Event.isBus = 2 * ((s.cfg.width + 7) / 8) * s.cfg.height + 3 + s.cfg.payloadRefresh.length

/-- 10_state.md R27 (RESET is written inside INIT only) with 43_display_protocol.md R167 (one pulse): a request that
is not INIT writes no RESET level; an admitted INIT writes the assert level and then the other, once each. -/
def Obligations.ResetPulseOnlyInInit : Prop :=
  ∀ (s t : State) (i : Instr), exec i s = .next t →
    ∃ es, t.trace = s.trace ++ es ∧
      resetHistory es = if i = .init ∧ s.state = .uninitialized then [s.cfg.rstAssertLevel, rstIdle s.cfg] else []

/-! ## Errors, acceptance, the step -/

/-- 30_encoding.md R94 with the step of this model (log entry 6): an idle block that is presented a request word
accepts it, and for a word that decodes the step is the meaning of the decoded operation. -/
def Obligations.StepRunsTheDecodedRequest : Prop :=
  ∀ (s : State) (w : ReqWord) (rest : List HostInput) (i : Instr), s.phase = .idle → s.busyFlag = false →
    s.host = .request w :: rest → decodeRequest w = .ok i →
    let u : State :=
      { s with
        host := rest
        busyFlag := true
        req := some w
        elapsed := none
        timeout := none
        acc := none
        cmdOp := none
        cmdSrc := none
        cmdIdx := none }
    step s = exec i u

/-- A block whose sequencer stands at a panel command runs that command in its next step (log entry 6). -/
def Obligations.StepRunsTheCommandAtHand : Prop :=
  ∀ (s : State) (p : PanelCmd), s.phase = .command p → s.host.head? ≠ some .reset → step s = exec p.instr s

/-- 30_encoding.md R90 and 60_exceptions.md R185: an illegal word is answered IllegalRequest and nothing else
happens. -/
def Obligations.IllegalRequestChangesNothing : Prop :=
  ∀ (s : State) (w : ReqWord) (rest : List HostInput) (e : IllegalEncoding), s.phase = .idle → s.busyFlag = false →
    s.host = .request w :: rest → decodeRequest w = .error e →
    step s = .next ({ s with host := rest }.finished [Event.rsp .illegalRequest 0])

/-- 30_encoding.md R84: every accepted request produces exactly one response, after its last other event. -/
def Obligations.OneResponsePerRequest : Prop :=
  ∀ (s t : State) (w : ReqWord) (rest : List HostInput), s.Inv → s.phase = .idle → s.host = .request w :: rest →
    step s = .next t →
    t.host = rest ∧ ∃ es st d, t.trace = s.trace ++ es ++ [Event.rsp st d] ∧ ∀ e ∈ es, e.isHardware = true

/-- 30_encoding.md R94: while BUSY_FLAG is 1 a request at the port stays pending. -/
def Obligations.BusyBlockAcceptsNothing : Prop :=
  ∀ (s t : State), s.Inv → s.busyFlag = true → step s = .next t → t.host = s.host

/-- 10_state.md R22 and 70_reset_and_hazards.md R212 as a safety property: from a state in the invariant no step
faults, and the one refusal is a block reset asserted during an operation. -/
def Obligations.StepNeverFaults : Prop :=
  ∀ (s : State), s.Inv →
    (s.busyFlag = true ∧ s.host.head? = some .reset ∧ step s = .refused .resetDuringOperation)
    ∨ (¬ (s.busyFlag = true ∧ s.host.head? = some .reset) ∧ ∃ t, step s = .next t)

/-! ## Reset, construction, invariants -/

/-- 10_state.md R34: the value of every piece of state after reset, for every configuration and every resting
level of DC. -/
def Obligations.ResetValues : Prop :=
  ∀ (c : Config) (dc : Level) (env : Env) (host : List HostInput),
    let s := State.resetWith c dc env host
    s.state = .uninitialized ∧ s.faultReason = .none ∧ s.busyFlag = false ∧ s.phase = .idle
    ∧ (∀ a, s.fb.read a = .white) ∧ s.cs = !c.csAssertLevel ∧ s.rst = !c.rstAssertLevel
    ∧ s.scratchEmpty ∧ s.statusOut = 0b0000000

/-- 10_state.md R34 with 70_reset_and_hazards.md R210: the reset asserted on an idle block puts every piece of state
at its reset value, whatever level DC takes, and emits no event. That the trace, the environment and the host's further
inputs stay is the model's choice (log entry 11). -/
def Obligations.BlockResetRestoresTheResetState : Prop :=
  ∀ (s : State) (rest : List HostInput), s.busyFlag = false → s.host = .reset :: rest →
    ∃ t, step s = .next t
      ∧ t.state = .uninitialized ∧ t.faultReason = .none ∧ t.busyFlag = false ∧ t.phase = .idle
      ∧ (∀ a, t.fb.read a = .white) ∧ t.cs = !s.cfg.csAssertLevel ∧ t.rst = !s.cfg.rstAssertLevel
      ∧ t.scratchEmpty ∧ t.statusOut = 0b0000000
      ∧ t.trace = s.trace ∧ t.cfg = s.cfg ∧ t.env = s.env ∧ t.host = rest

/-- 40_framebuffer.md R110, 00_scope.md R7, 42_busy_gate.md R152: what construction refuses, and that it gives the
reset state otherwise. -/
def Obligations.ConstructionRefusesBadConfigurations : Prop :=
  ∀ (c : Config) (dc : Level) (env : Env) (host : List HostInput),
    (c.width = 0 ∨ c.height = 0 → State.construct c dc env host = .refused .invalidDimensions)
    ∧ (c.pollDelayUs = 0 → ∃ r, State.construct c dc env host = .refused r)
    ∧ (∀ s, State.construct c dc env host = .next s → 1 ≤ s.cfg.pollDelayUs ∧ ∀ a, s.fb.read a = .white)
    ∧ (c.wf = true → State.construct c dc env host = .next (State.resetWith c dc env host))
    ∧ (c.wf = false → ∃ r, State.construct c dc env host = .refused r)

/-- 10_state.md section 10: the invariant holds after reset of every well-formed block. -/
def Obligations.ResetSatisfiesTheInvariant : Prop :=
  (∀ (c : Config) (dc : Level) (env : Env) (host : List HostInput), c.wf = true →
    (State.resetWith c dc env host).Inv) ∧ State.reset.Inv

/-- 10_state.md section 10: every step keeps the invariant, from every state that has it, inside an operation and
between operations. -/
def Obligations.EveryStepKeepsTheInvariant : Prop :=
  ∀ (s t : State), s.Inv → step s = .next t → t.Inv

/-- 10_state.md section 10: a step that takes a request ends between operations: BUSY_FLAG 0, PHASE IDLE, not
Refreshing, CS and RESET deasserted. -/
def Obligations.BetweenOperations : Prop :=
  ∀ (s t : State) (w : ReqWord) (rest : List HostInput), s.Inv → s.phase = .idle → s.host = .request w :: rest →
    step s = .next t →
    t.busyFlag = false ∧ t.phase = .idle ∧ t.state ≠ .refreshing ∧ t.cs = csIdle t.cfg ∧ t.rst = rstIdle t.cfg
    ∧ t.scratchEmpty

/-- 10_state.md R31 and 00_scope.md section 4: no step writes the configuration, and none takes an event back. -/
def Obligations.ConfigurationIsConstantAndTraceGrows : Prop :=
  ∀ (s t : State), step s = .next t → t.cfg = s.cfg ∧ s.trace <+: t.trace

/-- 10_state.md R29: the store is written by SET_PIXEL, CLEAR and the block reset only. -/
def Obligations.StoreIsWrittenBySetPixelAndClearOnly : Prop :=
  ∀ (s t : State), step s = .next t → t.fb ≠ s.fb →
    s.host.head? = some .reset
    ∨ ∃ w, s.host.head? = some (.request w) ∧ ((∃ x y col, decodeRequest w = .ok (.setPixel x y col))
        ∨ ∃ col, decodeRequest w = .ok (.clear col))

/-- 10_state.md R27: a line holds the last level written to it, whatever the step, but for the block reset. -/
def Obligations.LinesFollowTheTrace : Prop :=
  ∀ (s t : State), s.host.head? ≠ some .reset → step s = .next t →
    ∃ es, t.trace = s.trace ++ es ∧ t.cs = lineAfter .cs s.cs es ∧ t.dc = lineAfter .dc s.dc es
      ∧ t.rst = lineAfter .rst s.rst es

/-! ## The sequencer at its own grain -/

/-- 10_state.md R23 against 43_display_protocol.md and 42_busy_gate.md: from acceptance, the sequencer's micro-steps
end in exactly the state the operation's meaning gives. -/
def Obligations.SequencerRefinesTheOperations : Prop :=
  ∀ (s : State) (w : ReqWord) (i : Instr), s.Inv → s.phase = .idle → decodeRequest w = .ok i →
    ∃ n s1, startOp i (s.accept w) = .next s1 ∧ microRun n s1 = exec i (s.accept w)

/-- 10_state.md R23 against 41_command_encoder.md R131, R133: from a command, byte by byte with CMD_OP, CMD_SRC and
CMD_IDX, the micro-steps end in exactly the state the command's meaning gives. -/
def Obligations.SequencerRefinesTheCommands : Prop :=
  ∀ (s : State) (p : PanelCmd), s.phase = .command p → ∃ n, microRun n s = exec p.instr s

/-- 43_display_protocol.md R166 and 10_state.md R28: inside an UPDATE whose transactions succeed the status output
shows BUSY_FLAG = 1 and Refreshing. -/
def Obligations.RefreshingShowsOnTheStatusOutput : Prop :=
  ∀ (s : State) (w : ReqWord), s.Inv → s.phase = .idle → s.state = .ready →
    s.env.busOk (wireLength (updateCommands s.cfg s.fb)) →
    ∃ n s1 t, startOp .update (s.accept w) = .next s1 ∧ microRun n s1 = .next t ∧ t.statusOut = 0b1000010

/-- 10_state.md R28 with the codes of R24 and R25 as numbers: in every state `STATUS[2:0]` is STATE, `STATUS[5:3]`
FAULT_REASON and `STATUS[6]` BUSY_FLAG. -/
def Obligations.StatusOutputLayout : Prop :=
  ∀ s : State,
    s.statusOut.toNat
      = 2 ^ 6 * (if s.busyFlag then 1 else 0)
        + 2 ^ 3 * (match s.faultReason with
          | .none => 0 | .resetTimeout => 1 | .configTimeout => 2 | .refreshTimeout => 3 | .busFault => 4)
        + (match s.state with
          | .uninitialized => 0 | .ready => 1 | .refreshing => 2 | .poweredDown => 3 | .faulted => 4)
end

