-- ==== Sys2Proof/Laws/State.lean ====
section
/-! SUPPORT. One lemma per field per update of State, each by rfl and in the simp set, so that no later proof
unfolds a record update. -/

namespace Sys2Proof.Machine.State

/-! ### emit -/

@[simp] theorem emit_state (e : Event) (s : State) : (s.emit e).state = s.state := rfl
@[simp] theorem emit_faultReason (e : Event) (s : State) : (s.emit e).faultReason = s.faultReason := rfl
@[simp] theorem emit_busyFlag (e : Event) (s : State) : (s.emit e).busyFlag = s.busyFlag := rfl
@[simp] theorem emit_phase (e : Event) (s : State) : (s.emit e).phase = s.phase := rfl
@[simp] theorem emit_cs (e : Event) (s : State) : (s.emit e).cs = s.cs := rfl
@[simp] theorem emit_dc (e : Event) (s : State) : (s.emit e).dc = s.dc := rfl
@[simp] theorem emit_rst (e : Event) (s : State) : (s.emit e).rst = s.rst := rfl
@[simp] theorem emit_fb (e : Event) (s : State) : (s.emit e).fb = s.fb := rfl
@[simp] theorem emit_req (e : Event) (s : State) : (s.emit e).req = s.req := rfl
@[simp] theorem emit_elapsed (e : Event) (s : State) : (s.emit e).elapsed = s.elapsed := rfl
@[simp] theorem emit_timeout (e : Event) (s : State) : (s.emit e).timeout = s.timeout := rfl
@[simp] theorem emit_acc (e : Event) (s : State) : (s.emit e).acc = s.acc := rfl
@[simp] theorem emit_cmdOp (e : Event) (s : State) : (s.emit e).cmdOp = s.cmdOp := rfl
@[simp] theorem emit_cmdSrc (e : Event) (s : State) : (s.emit e).cmdSrc = s.cmdSrc := rfl
@[simp] theorem emit_cmdIdx (e : Event) (s : State) : (s.emit e).cmdIdx = s.cmdIdx := rfl
@[simp] theorem emit_cfg (e : Event) (s : State) : (s.emit e).cfg = s.cfg := rfl
@[simp] theorem emit_env (e : Event) (s : State) : (s.emit e).env = s.env := rfl
@[simp] theorem emit_host (e : Event) (s : State) : (s.emit e).host = s.host := rfl
@[simp] theorem emit_trace (e : Event) (s : State) : (s.emit e).trace = s.trace ++ [e] := rfl
@[simp] theorem emit_dcDraws (e : Event) (s : State) : (s.emit e).dcDraws = s.dcDraws := rfl

/-! ### setLine -/

@[simp] theorem setLine_cs_state (v : Level) (s : State) : (s.setLine .cs v).state = s.state := rfl
@[simp] theorem setLine_cs_faultReason (v : Level) (s : State) : (s.setLine .cs v).faultReason = s.faultReason := rfl
@[simp] theorem setLine_cs_busyFlag (v : Level) (s : State) : (s.setLine .cs v).busyFlag = s.busyFlag := rfl
@[simp] theorem setLine_cs_phase (v : Level) (s : State) : (s.setLine .cs v).phase = s.phase := rfl
@[simp] theorem setLine_cs_cs (v : Level) (s : State) : (s.setLine .cs v).cs = v := rfl
@[simp] theorem setLine_cs_dc (v : Level) (s : State) : (s.setLine .cs v).dc = s.dc := rfl
@[simp] theorem setLine_cs_rst (v : Level) (s : State) : (s.setLine .cs v).rst = s.rst := rfl
@[simp] theorem setLine_cs_fb (v : Level) (s : State) : (s.setLine .cs v).fb = s.fb := rfl
@[simp] theorem setLine_cs_req (v : Level) (s : State) : (s.setLine .cs v).req = s.req := rfl
@[simp] theorem setLine_cs_elapsed (v : Level) (s : State) : (s.setLine .cs v).elapsed = s.elapsed := rfl
@[simp] theorem setLine_cs_timeout (v : Level) (s : State) : (s.setLine .cs v).timeout = s.timeout := rfl
@[simp] theorem setLine_cs_acc (v : Level) (s : State) : (s.setLine .cs v).acc = s.acc := rfl
@[simp] theorem setLine_cs_cmdOp (v : Level) (s : State) : (s.setLine .cs v).cmdOp = s.cmdOp := rfl
@[simp] theorem setLine_cs_cmdSrc (v : Level) (s : State) : (s.setLine .cs v).cmdSrc = s.cmdSrc := rfl
@[simp] theorem setLine_cs_cmdIdx (v : Level) (s : State) : (s.setLine .cs v).cmdIdx = s.cmdIdx := rfl
@[simp] theorem setLine_cs_cfg (v : Level) (s : State) : (s.setLine .cs v).cfg = s.cfg := rfl
@[simp] theorem setLine_cs_env (v : Level) (s : State) : (s.setLine .cs v).env = s.env := rfl
@[simp] theorem setLine_cs_host (v : Level) (s : State) : (s.setLine .cs v).host = s.host := rfl
@[simp] theorem setLine_cs_trace (v : Level) (s : State) : (s.setLine .cs v).trace = s.trace ++ [.line .cs v] := rfl
@[simp] theorem setLine_cs_dcDraws (v : Level) (s : State) : (s.setLine .cs v).dcDraws = s.dcDraws := rfl

@[simp] theorem setLine_dc_state (v : Level) (s : State) : (s.setLine .dc v).state = s.state := rfl
@[simp] theorem setLine_dc_faultReason (v : Level) (s : State) : (s.setLine .dc v).faultReason = s.faultReason := rfl
@[simp] theorem setLine_dc_busyFlag (v : Level) (s : State) : (s.setLine .dc v).busyFlag = s.busyFlag := rfl
@[simp] theorem setLine_dc_phase (v : Level) (s : State) : (s.setLine .dc v).phase = s.phase := rfl
@[simp] theorem setLine_dc_cs (v : Level) (s : State) : (s.setLine .dc v).cs = s.cs := rfl
@[simp] theorem setLine_dc_dc (v : Level) (s : State) : (s.setLine .dc v).dc = v := rfl
@[simp] theorem setLine_dc_rst (v : Level) (s : State) : (s.setLine .dc v).rst = s.rst := rfl
@[simp] theorem setLine_dc_fb (v : Level) (s : State) : (s.setLine .dc v).fb = s.fb := rfl
@[simp] theorem setLine_dc_req (v : Level) (s : State) : (s.setLine .dc v).req = s.req := rfl
@[simp] theorem setLine_dc_elapsed (v : Level) (s : State) : (s.setLine .dc v).elapsed = s.elapsed := rfl
@[simp] theorem setLine_dc_timeout (v : Level) (s : State) : (s.setLine .dc v).timeout = s.timeout := rfl
@[simp] theorem setLine_dc_acc (v : Level) (s : State) : (s.setLine .dc v).acc = s.acc := rfl
@[simp] theorem setLine_dc_cmdOp (v : Level) (s : State) : (s.setLine .dc v).cmdOp = s.cmdOp := rfl
@[simp] theorem setLine_dc_cmdSrc (v : Level) (s : State) : (s.setLine .dc v).cmdSrc = s.cmdSrc := rfl
@[simp] theorem setLine_dc_cmdIdx (v : Level) (s : State) : (s.setLine .dc v).cmdIdx = s.cmdIdx := rfl
@[simp] theorem setLine_dc_cfg (v : Level) (s : State) : (s.setLine .dc v).cfg = s.cfg := rfl
@[simp] theorem setLine_dc_env (v : Level) (s : State) : (s.setLine .dc v).env = s.env := rfl
@[simp] theorem setLine_dc_host (v : Level) (s : State) : (s.setLine .dc v).host = s.host := rfl
@[simp] theorem setLine_dc_trace (v : Level) (s : State) : (s.setLine .dc v).trace = s.trace ++ [.line .dc v] := rfl
@[simp] theorem setLine_dc_dcDraws (v : Level) (s : State) : (s.setLine .dc v).dcDraws = s.dcDraws := rfl

@[simp] theorem setLine_rst_state (v : Level) (s : State) : (s.setLine .rst v).state = s.state := rfl
@[simp] theorem setLine_rst_faultReason (v : Level) (s : State) : (s.setLine .rst v).faultReason = s.faultReason := rfl
@[simp] theorem setLine_rst_busyFlag (v : Level) (s : State) : (s.setLine .rst v).busyFlag = s.busyFlag := rfl
@[simp] theorem setLine_rst_phase (v : Level) (s : State) : (s.setLine .rst v).phase = s.phase := rfl
@[simp] theorem setLine_rst_cs (v : Level) (s : State) : (s.setLine .rst v).cs = s.cs := rfl
@[simp] theorem setLine_rst_dc (v : Level) (s : State) : (s.setLine .rst v).dc = s.dc := rfl
@[simp] theorem setLine_rst_rst (v : Level) (s : State) : (s.setLine .rst v).rst = v := rfl
@[simp] theorem setLine_rst_fb (v : Level) (s : State) : (s.setLine .rst v).fb = s.fb := rfl
@[simp] theorem setLine_rst_req (v : Level) (s : State) : (s.setLine .rst v).req = s.req := rfl
@[simp] theorem setLine_rst_elapsed (v : Level) (s : State) : (s.setLine .rst v).elapsed = s.elapsed := rfl
@[simp] theorem setLine_rst_timeout (v : Level) (s : State) : (s.setLine .rst v).timeout = s.timeout := rfl
@[simp] theorem setLine_rst_acc (v : Level) (s : State) : (s.setLine .rst v).acc = s.acc := rfl
@[simp] theorem setLine_rst_cmdOp (v : Level) (s : State) : (s.setLine .rst v).cmdOp = s.cmdOp := rfl
@[simp] theorem setLine_rst_cmdSrc (v : Level) (s : State) : (s.setLine .rst v).cmdSrc = s.cmdSrc := rfl
@[simp] theorem setLine_rst_cmdIdx (v : Level) (s : State) : (s.setLine .rst v).cmdIdx = s.cmdIdx := rfl
@[simp] theorem setLine_rst_cfg (v : Level) (s : State) : (s.setLine .rst v).cfg = s.cfg := rfl
@[simp] theorem setLine_rst_env (v : Level) (s : State) : (s.setLine .rst v).env = s.env := rfl
@[simp] theorem setLine_rst_host (v : Level) (s : State) : (s.setLine .rst v).host = s.host := rfl
@[simp] theorem setLine_rst_trace (v : Level) (s : State) : (s.setLine .rst v).trace = s.trace ++ [.line .rst v] := rfl
@[simp] theorem setLine_rst_dcDraws (v : Level) (s : State) : (s.setLine .rst v).dcDraws = s.dcDraws := rfl

/-! ### delayUs, busWrite, sampleBusy -/

@[simp] theorem delayUs_state (n : Nat) (s : State) : (s.delayUs n).state = s.state := rfl
@[simp] theorem delayUs_faultReason (n : Nat) (s : State) : (s.delayUs n).faultReason = s.faultReason := rfl
@[simp] theorem delayUs_busyFlag (n : Nat) (s : State) : (s.delayUs n).busyFlag = s.busyFlag := rfl
@[simp] theorem delayUs_phase (n : Nat) (s : State) : (s.delayUs n).phase = s.phase := rfl
@[simp] theorem delayUs_cs (n : Nat) (s : State) : (s.delayUs n).cs = s.cs := rfl
@[simp] theorem delayUs_dc (n : Nat) (s : State) : (s.delayUs n).dc = s.dc := rfl
@[simp] theorem delayUs_rst (n : Nat) (s : State) : (s.delayUs n).rst = s.rst := rfl
@[simp] theorem delayUs_fb (n : Nat) (s : State) : (s.delayUs n).fb = s.fb := rfl
@[simp] theorem delayUs_req (n : Nat) (s : State) : (s.delayUs n).req = s.req := rfl
@[simp] theorem delayUs_elapsed (n : Nat) (s : State) : (s.delayUs n).elapsed = s.elapsed := rfl
@[simp] theorem delayUs_timeout (n : Nat) (s : State) : (s.delayUs n).timeout = s.timeout := rfl
@[simp] theorem delayUs_acc (n : Nat) (s : State) : (s.delayUs n).acc = s.acc := rfl
@[simp] theorem delayUs_cmdOp (n : Nat) (s : State) : (s.delayUs n).cmdOp = s.cmdOp := rfl
@[simp] theorem delayUs_cmdSrc (n : Nat) (s : State) : (s.delayUs n).cmdSrc = s.cmdSrc := rfl
@[simp] theorem delayUs_cmdIdx (n : Nat) (s : State) : (s.delayUs n).cmdIdx = s.cmdIdx := rfl
@[simp] theorem delayUs_cfg (n : Nat) (s : State) : (s.delayUs n).cfg = s.cfg := rfl
@[simp] theorem delayUs_env (n : Nat) (s : State) : (s.delayUs n).env = s.env := rfl
@[simp] theorem delayUs_host (n : Nat) (s : State) : (s.delayUs n).host = s.host := rfl
@[simp] theorem delayUs_trace (n : Nat) (s : State) : (s.delayUs n).trace = s.trace ++ [.delay n] := rfl
@[simp] theorem delayUs_dcDraws (n : Nat) (s : State) : (s.delayUs n).dcDraws = s.dcDraws := rfl

@[simp] theorem busWrite_snd_state (b : Byte) (s : State) : ((s.busWrite b).2).state = s.state := rfl
@[simp] theorem busWrite_snd_faultReason (b : Byte) (s : State) : ((s.busWrite b).2).faultReason = s.faultReason := rfl
@[simp] theorem busWrite_snd_busyFlag (b : Byte) (s : State) : ((s.busWrite b).2).busyFlag = s.busyFlag := rfl
@[simp] theorem busWrite_snd_phase (b : Byte) (s : State) : ((s.busWrite b).2).phase = s.phase := rfl
@[simp] theorem busWrite_snd_cs (b : Byte) (s : State) : ((s.busWrite b).2).cs = s.cs := rfl
@[simp] theorem busWrite_snd_dc (b : Byte) (s : State) : ((s.busWrite b).2).dc = s.dc := rfl
@[simp] theorem busWrite_snd_rst (b : Byte) (s : State) : ((s.busWrite b).2).rst = s.rst := rfl
@[simp] theorem busWrite_snd_fb (b : Byte) (s : State) : ((s.busWrite b).2).fb = s.fb := rfl
@[simp] theorem busWrite_snd_req (b : Byte) (s : State) : ((s.busWrite b).2).req = s.req := rfl
@[simp] theorem busWrite_snd_elapsed (b : Byte) (s : State) : ((s.busWrite b).2).elapsed = s.elapsed := rfl
@[simp] theorem busWrite_snd_timeout (b : Byte) (s : State) : ((s.busWrite b).2).timeout = s.timeout := rfl
@[simp] theorem busWrite_snd_acc (b : Byte) (s : State) : ((s.busWrite b).2).acc = s.acc := rfl
@[simp] theorem busWrite_snd_cmdOp (b : Byte) (s : State) : ((s.busWrite b).2).cmdOp = s.cmdOp := rfl
@[simp] theorem busWrite_snd_cmdSrc (b : Byte) (s : State) : ((s.busWrite b).2).cmdSrc = s.cmdSrc := rfl
@[simp] theorem busWrite_snd_cmdIdx (b : Byte) (s : State) : ((s.busWrite b).2).cmdIdx = s.cmdIdx := rfl
@[simp] theorem busWrite_snd_cfg (b : Byte) (s : State) : ((s.busWrite b).2).cfg = s.cfg := rfl
@[simp] theorem busWrite_snd_env (b : Byte) (s : State) : ((s.busWrite b).2).env = s.env.dropBus 1 := rfl
@[simp] theorem busWrite_snd_host (b : Byte) (s : State) : ((s.busWrite b).2).host = s.host := rfl
@[simp] theorem busWrite_snd_trace (b : Byte) (s : State) : ((s.busWrite b).2).trace = s.trace ++ [.bus b] := rfl
@[simp] theorem busWrite_snd_dcDraws (b : Byte) (s : State) : ((s.busWrite b).2).dcDraws = s.dcDraws := rfl

@[simp] theorem sampleBusy_snd_state (s : State) : (s.sampleBusy.2).state = s.state := rfl
@[simp] theorem sampleBusy_snd_faultReason (s : State) : (s.sampleBusy.2).faultReason = s.faultReason := rfl
@[simp] theorem sampleBusy_snd_busyFlag (s : State) : (s.sampleBusy.2).busyFlag = s.busyFlag := rfl
@[simp] theorem sampleBusy_snd_phase (s : State) : (s.sampleBusy.2).phase = s.phase := rfl
@[simp] theorem sampleBusy_snd_cs (s : State) : (s.sampleBusy.2).cs = s.cs := rfl
@[simp] theorem sampleBusy_snd_dc (s : State) : (s.sampleBusy.2).dc = s.dc := rfl
@[simp] theorem sampleBusy_snd_rst (s : State) : (s.sampleBusy.2).rst = s.rst := rfl
@[simp] theorem sampleBusy_snd_fb (s : State) : (s.sampleBusy.2).fb = s.fb := rfl
@[simp] theorem sampleBusy_snd_req (s : State) : (s.sampleBusy.2).req = s.req := rfl
@[simp] theorem sampleBusy_snd_elapsed (s : State) : (s.sampleBusy.2).elapsed = s.elapsed := rfl
@[simp] theorem sampleBusy_snd_timeout (s : State) : (s.sampleBusy.2).timeout = s.timeout := rfl
@[simp] theorem sampleBusy_snd_acc (s : State) : (s.sampleBusy.2).acc = s.acc := rfl
@[simp] theorem sampleBusy_snd_cmdOp (s : State) : (s.sampleBusy.2).cmdOp = s.cmdOp := rfl
@[simp] theorem sampleBusy_snd_cmdSrc (s : State) : (s.sampleBusy.2).cmdSrc = s.cmdSrc := rfl
@[simp] theorem sampleBusy_snd_cmdIdx (s : State) : (s.sampleBusy.2).cmdIdx = s.cmdIdx := rfl
@[simp] theorem sampleBusy_snd_cfg (s : State) : (s.sampleBusy.2).cfg = s.cfg := rfl
@[simp] theorem sampleBusy_snd_env (s : State) : (s.sampleBusy.2).env = s.env.dropBusy 1 := rfl
@[simp] theorem sampleBusy_snd_host (s : State) : (s.sampleBusy.2).host = s.host := rfl
@[simp] theorem sampleBusy_snd_trace (s : State) : (s.sampleBusy.2).trace = s.trace ++ [.sample (s.env.busyAt 0)] := rfl
@[simp] theorem sampleBusy_snd_dcDraws (s : State) : (s.sampleBusy.2).dcDraws = s.dcDraws := rfl

/-! ### acceptance, scratch registers, response, fault entry -/

@[simp] theorem clearScratch_state (s : State) : (s.clearScratch).state = s.state := rfl
@[simp] theorem clearScratch_faultReason (s : State) : (s.clearScratch).faultReason = s.faultReason := rfl
@[simp] theorem clearScratch_busyFlag (s : State) : (s.clearScratch).busyFlag = s.busyFlag := rfl
@[simp] theorem clearScratch_phase (s : State) : (s.clearScratch).phase = s.phase := rfl
@[simp] theorem clearScratch_cs (s : State) : (s.clearScratch).cs = s.cs := rfl
@[simp] theorem clearScratch_dc (s : State) : (s.clearScratch).dc = s.dc := rfl
@[simp] theorem clearScratch_rst (s : State) : (s.clearScratch).rst = s.rst := rfl
@[simp] theorem clearScratch_fb (s : State) : (s.clearScratch).fb = s.fb := rfl
@[simp] theorem clearScratch_req (s : State) : (s.clearScratch).req = none := rfl
@[simp] theorem clearScratch_elapsed (s : State) : (s.clearScratch).elapsed = none := rfl
@[simp] theorem clearScratch_timeout (s : State) : (s.clearScratch).timeout = none := rfl
@[simp] theorem clearScratch_acc (s : State) : (s.clearScratch).acc = none := rfl
@[simp] theorem clearScratch_cmdOp (s : State) : (s.clearScratch).cmdOp = none := rfl
@[simp] theorem clearScratch_cmdSrc (s : State) : (s.clearScratch).cmdSrc = none := rfl
@[simp] theorem clearScratch_cmdIdx (s : State) : (s.clearScratch).cmdIdx = none := rfl
@[simp] theorem clearScratch_cfg (s : State) : (s.clearScratch).cfg = s.cfg := rfl
@[simp] theorem clearScratch_env (s : State) : (s.clearScratch).env = s.env := rfl
@[simp] theorem clearScratch_host (s : State) : (s.clearScratch).host = s.host := rfl
@[simp] theorem clearScratch_trace (s : State) : (s.clearScratch).trace = s.trace := rfl
@[simp] theorem clearScratch_dcDraws (s : State) : (s.clearScratch).dcDraws = s.dcDraws := rfl

@[simp] theorem clearCommand_state (s : State) : (s.clearCommand).state = s.state := rfl
@[simp] theorem clearCommand_faultReason (s : State) : (s.clearCommand).faultReason = s.faultReason := rfl
@[simp] theorem clearCommand_busyFlag (s : State) : (s.clearCommand).busyFlag = s.busyFlag := rfl
@[simp] theorem clearCommand_phase (s : State) : (s.clearCommand).phase = s.phase := rfl
@[simp] theorem clearCommand_cs (s : State) : (s.clearCommand).cs = s.cs := rfl
@[simp] theorem clearCommand_dc (s : State) : (s.clearCommand).dc = s.dc := rfl
@[simp] theorem clearCommand_rst (s : State) : (s.clearCommand).rst = s.rst := rfl
@[simp] theorem clearCommand_fb (s : State) : (s.clearCommand).fb = s.fb := rfl
@[simp] theorem clearCommand_req (s : State) : (s.clearCommand).req = s.req := rfl
@[simp] theorem clearCommand_elapsed (s : State) : (s.clearCommand).elapsed = s.elapsed := rfl
@[simp] theorem clearCommand_timeout (s : State) : (s.clearCommand).timeout = s.timeout := rfl
@[simp] theorem clearCommand_acc (s : State) : (s.clearCommand).acc = s.acc := rfl
@[simp] theorem clearCommand_cmdOp (s : State) : (s.clearCommand).cmdOp = none := rfl
@[simp] theorem clearCommand_cmdSrc (s : State) : (s.clearCommand).cmdSrc = none := rfl
@[simp] theorem clearCommand_cmdIdx (s : State) : (s.clearCommand).cmdIdx = none := rfl
@[simp] theorem clearCommand_cfg (s : State) : (s.clearCommand).cfg = s.cfg := rfl
@[simp] theorem clearCommand_env (s : State) : (s.clearCommand).env = s.env := rfl
@[simp] theorem clearCommand_host (s : State) : (s.clearCommand).host = s.host := rfl
@[simp] theorem clearCommand_trace (s : State) : (s.clearCommand).trace = s.trace := rfl
@[simp] theorem clearCommand_dcDraws (s : State) : (s.clearCommand).dcDraws = s.dcDraws := rfl

@[simp] theorem accept_state (w : ReqWord) (s : State) : (s.accept w).state = s.state := rfl
@[simp] theorem accept_faultReason (w : ReqWord) (s : State) : (s.accept w).faultReason = s.faultReason := rfl
@[simp] theorem accept_busyFlag (w : ReqWord) (s : State) : (s.accept w).busyFlag = true := rfl
@[simp] theorem accept_phase (w : ReqWord) (s : State) : (s.accept w).phase = s.phase := rfl
@[simp] theorem accept_cs (w : ReqWord) (s : State) : (s.accept w).cs = s.cs := rfl
@[simp] theorem accept_dc (w : ReqWord) (s : State) : (s.accept w).dc = s.dc := rfl
@[simp] theorem accept_rst (w : ReqWord) (s : State) : (s.accept w).rst = s.rst := rfl
@[simp] theorem accept_fb (w : ReqWord) (s : State) : (s.accept w).fb = s.fb := rfl
@[simp] theorem accept_req (w : ReqWord) (s : State) : (s.accept w).req = some w := rfl
@[simp] theorem accept_elapsed (w : ReqWord) (s : State) : (s.accept w).elapsed = none := rfl
@[simp] theorem accept_timeout (w : ReqWord) (s : State) : (s.accept w).timeout = none := rfl
@[simp] theorem accept_acc (w : ReqWord) (s : State) : (s.accept w).acc = none := rfl
@[simp] theorem accept_cmdOp (w : ReqWord) (s : State) : (s.accept w).cmdOp = none := rfl
@[simp] theorem accept_cmdSrc (w : ReqWord) (s : State) : (s.accept w).cmdSrc = none := rfl
@[simp] theorem accept_cmdIdx (w : ReqWord) (s : State) : (s.accept w).cmdIdx = none := rfl
@[simp] theorem accept_cfg (w : ReqWord) (s : State) : (s.accept w).cfg = s.cfg := rfl
@[simp] theorem accept_env (w : ReqWord) (s : State) : (s.accept w).env = s.env := rfl
@[simp] theorem accept_host (w : ReqWord) (s : State) : (s.accept w).host = s.host := rfl
@[simp] theorem accept_trace (w : ReqWord) (s : State) : (s.accept w).trace = s.trace := rfl
@[simp] theorem accept_dcDraws (w : ReqWord) (s : State) : (s.accept w).dcDraws = s.dcDraws := rfl

@[simp] theorem toIdle_state (s : State) : (s.toIdle).state = s.state := rfl
@[simp] theorem toIdle_faultReason (s : State) : (s.toIdle).faultReason = s.faultReason := rfl
@[simp] theorem toIdle_busyFlag (s : State) : (s.toIdle).busyFlag = false := rfl
@[simp] theorem toIdle_phase (s : State) : (s.toIdle).phase = .idle := rfl
@[simp] theorem toIdle_cs (s : State) : (s.toIdle).cs = s.cs := rfl
@[simp] theorem toIdle_dc (s : State) : (s.toIdle).dc = s.dc := rfl
@[simp] theorem toIdle_rst (s : State) : (s.toIdle).rst = s.rst := rfl
@[simp] theorem toIdle_fb (s : State) : (s.toIdle).fb = s.fb := rfl
@[simp] theorem toIdle_req (s : State) : (s.toIdle).req = none := rfl
@[simp] theorem toIdle_elapsed (s : State) : (s.toIdle).elapsed = none := rfl
@[simp] theorem toIdle_timeout (s : State) : (s.toIdle).timeout = none := rfl
@[simp] theorem toIdle_acc (s : State) : (s.toIdle).acc = none := rfl
@[simp] theorem toIdle_cmdOp (s : State) : (s.toIdle).cmdOp = none := rfl
@[simp] theorem toIdle_cmdSrc (s : State) : (s.toIdle).cmdSrc = none := rfl
@[simp] theorem toIdle_cmdIdx (s : State) : (s.toIdle).cmdIdx = none := rfl
@[simp] theorem toIdle_cfg (s : State) : (s.toIdle).cfg = s.cfg := rfl
@[simp] theorem toIdle_env (s : State) : (s.toIdle).env = s.env := rfl
@[simp] theorem toIdle_host (s : State) : (s.toIdle).host = s.host := rfl
@[simp] theorem toIdle_trace (s : State) : (s.toIdle).trace = s.trace := rfl
@[simp] theorem toIdle_dcDraws (s : State) : (s.toIdle).dcDraws = s.dcDraws := rfl

@[simp] theorem respond_state (st : Status) (d : Word) (s : State) : (s.respond st d).state = s.state := rfl
@[simp] theorem respond_faultReason (st : Status) (d : Word) (s : State) : (s.respond st d).faultReason = s.faultReason := rfl
@[simp] theorem respond_busyFlag (st : Status) (d : Word) (s : State) : (s.respond st d).busyFlag = false := rfl
@[simp] theorem respond_phase (st : Status) (d : Word) (s : State) : (s.respond st d).phase = .idle := rfl
@[simp] theorem respond_cs (st : Status) (d : Word) (s : State) : (s.respond st d).cs = s.cs := rfl
@[simp] theorem respond_dc (st : Status) (d : Word) (s : State) : (s.respond st d).dc = s.dc := rfl
@[simp] theorem respond_rst (st : Status) (d : Word) (s : State) : (s.respond st d).rst = s.rst := rfl
@[simp] theorem respond_fb (st : Status) (d : Word) (s : State) : (s.respond st d).fb = s.fb := rfl
@[simp] theorem respond_req (st : Status) (d : Word) (s : State) : (s.respond st d).req = none := rfl
@[simp] theorem respond_elapsed (st : Status) (d : Word) (s : State) : (s.respond st d).elapsed = none := rfl
@[simp] theorem respond_timeout (st : Status) (d : Word) (s : State) : (s.respond st d).timeout = none := rfl
@[simp] theorem respond_acc (st : Status) (d : Word) (s : State) : (s.respond st d).acc = none := rfl
@[simp] theorem respond_cmdOp (st : Status) (d : Word) (s : State) : (s.respond st d).cmdOp = none := rfl
@[simp] theorem respond_cmdSrc (st : Status) (d : Word) (s : State) : (s.respond st d).cmdSrc = none := rfl
@[simp] theorem respond_cmdIdx (st : Status) (d : Word) (s : State) : (s.respond st d).cmdIdx = none := rfl
@[simp] theorem respond_cfg (st : Status) (d : Word) (s : State) : (s.respond st d).cfg = s.cfg := rfl
@[simp] theorem respond_env (st : Status) (d : Word) (s : State) : (s.respond st d).env = s.env := rfl
@[simp] theorem respond_host (st : Status) (d : Word) (s : State) : (s.respond st d).host = s.host := rfl
@[simp] theorem respond_trace (st : Status) (d : Word) (s : State) : (s.respond st d).trace = s.trace ++ [.rsp st d] := rfl
@[simp] theorem respond_dcDraws (st : Status) (d : Word) (s : State) : (s.respond st d).dcDraws = s.dcDraws := rfl

@[simp] theorem takeFault_state (r : FaultReason) (st : Status) (d : Word) (s : State) : (s.takeFault r st d).state = .faulted := rfl
@[simp] theorem takeFault_faultReason (r : FaultReason) (st : Status) (d : Word) (s : State) : (s.takeFault r st d).faultReason = r := rfl
@[simp] theorem takeFault_busyFlag (r : FaultReason) (st : Status) (d : Word) (s : State) : (s.takeFault r st d).busyFlag = false := rfl
@[simp] theorem takeFault_phase (r : FaultReason) (st : Status) (d : Word) (s : State) : (s.takeFault r st d).phase = .idle := rfl
@[simp] theorem takeFault_cs (r : FaultReason) (st : Status) (d : Word) (s : State) : (s.takeFault r st d).cs = s.cs := rfl
@[simp] theorem takeFault_dc (r : FaultReason) (st : Status) (d : Word) (s : State) : (s.takeFault r st d).dc = s.dc := rfl
@[simp] theorem takeFault_rst (r : FaultReason) (st : Status) (d : Word) (s : State) : (s.takeFault r st d).rst = s.rst := rfl
@[simp] theorem takeFault_fb (r : FaultReason) (st : Status) (d : Word) (s : State) : (s.takeFault r st d).fb = s.fb := rfl
@[simp] theorem takeFault_req (r : FaultReason) (st : Status) (d : Word) (s : State) : (s.takeFault r st d).req = none := rfl
@[simp] theorem takeFault_elapsed (r : FaultReason) (st : Status) (d : Word) (s : State) : (s.takeFault r st d).elapsed = none := rfl
@[simp] theorem takeFault_timeout (r : FaultReason) (st : Status) (d : Word) (s : State) : (s.takeFault r st d).timeout = none := rfl
@[simp] theorem takeFault_acc (r : FaultReason) (st : Status) (d : Word) (s : State) : (s.takeFault r st d).acc = none := rfl
@[simp] theorem takeFault_cmdOp (r : FaultReason) (st : Status) (d : Word) (s : State) : (s.takeFault r st d).cmdOp = none := rfl
@[simp] theorem takeFault_cmdSrc (r : FaultReason) (st : Status) (d : Word) (s : State) : (s.takeFault r st d).cmdSrc = none := rfl
@[simp] theorem takeFault_cmdIdx (r : FaultReason) (st : Status) (d : Word) (s : State) : (s.takeFault r st d).cmdIdx = none := rfl
@[simp] theorem takeFault_cfg (r : FaultReason) (st : Status) (d : Word) (s : State) : (s.takeFault r st d).cfg = s.cfg := rfl
@[simp] theorem takeFault_env (r : FaultReason) (st : Status) (d : Word) (s : State) : (s.takeFault r st d).env = s.env := rfl
@[simp] theorem takeFault_host (r : FaultReason) (st : Status) (d : Word) (s : State) : (s.takeFault r st d).host = s.host := rfl
@[simp] theorem takeFault_trace (r : FaultReason) (st : Status) (d : Word) (s : State) : (s.takeFault r st d).trace = s.trace ++ [.rsp st d] := rfl
@[simp] theorem takeFault_dcDraws (r : FaultReason) (st : Status) (d : Word) (s : State) : (s.takeFault r st d).dcDraws = s.dcDraws := rfl

@[simp] theorem finished_state (es : List Event) (s : State) : (s.finished es).state = s.state := rfl
@[simp] theorem finished_faultReason (es : List Event) (s : State) : (s.finished es).faultReason = s.faultReason := rfl
@[simp] theorem finished_busyFlag (es : List Event) (s : State) : (s.finished es).busyFlag = false := rfl
@[simp] theorem finished_phase (es : List Event) (s : State) : (s.finished es).phase = .idle := rfl
@[simp] theorem finished_cs (es : List Event) (s : State) : (s.finished es).cs = s.cs := rfl
@[simp] theorem finished_dc (es : List Event) (s : State) : (s.finished es).dc = s.dc := rfl
@[simp] theorem finished_rst (es : List Event) (s : State) : (s.finished es).rst = s.rst := rfl
@[simp] theorem finished_fb (es : List Event) (s : State) : (s.finished es).fb = s.fb := rfl
@[simp] theorem finished_req (es : List Event) (s : State) : (s.finished es).req = none := rfl
@[simp] theorem finished_elapsed (es : List Event) (s : State) : (s.finished es).elapsed = none := rfl
@[simp] theorem finished_timeout (es : List Event) (s : State) : (s.finished es).timeout = none := rfl
@[simp] theorem finished_acc (es : List Event) (s : State) : (s.finished es).acc = none := rfl
@[simp] theorem finished_cmdOp (es : List Event) (s : State) : (s.finished es).cmdOp = none := rfl
@[simp] theorem finished_cmdSrc (es : List Event) (s : State) : (s.finished es).cmdSrc = none := rfl
@[simp] theorem finished_cmdIdx (es : List Event) (s : State) : (s.finished es).cmdIdx = none := rfl
@[simp] theorem finished_cfg (es : List Event) (s : State) : (s.finished es).cfg = s.cfg := rfl
@[simp] theorem finished_env (es : List Event) (s : State) : (s.finished es).env = s.env := rfl
@[simp] theorem finished_host (es : List Event) (s : State) : (s.finished es).host = s.host := rfl
@[simp] theorem finished_trace (es : List Event) (s : State) : (s.finished es).trace = s.trace ++ es := rfl
@[simp] theorem finished_dcDraws (es : List Event) (s : State) : (s.finished es).dcDraws = s.dcDraws := rfl

@[simp] theorem sent_state (cmd : Command) (s : State) : (s.sent cmd).state = s.state := rfl
@[simp] theorem sent_faultReason (cmd : Command) (s : State) : (s.sent cmd).faultReason = s.faultReason := rfl
@[simp] theorem sent_busyFlag (cmd : Command) (s : State) : (s.sent cmd).busyFlag = s.busyFlag := rfl
@[simp] theorem sent_phase (cmd : Command) (s : State) : (s.sent cmd).phase = s.phase := rfl
@[simp] theorem sent_cs (cmd : Command) (s : State) : (s.sent cmd).cs = csIdle s.cfg := rfl
@[simp] theorem sent_dc (cmd : Command) (s : State) : (s.sent cmd).dc = dcAfter s.cfg cmd := rfl
@[simp] theorem sent_rst (cmd : Command) (s : State) : (s.sent cmd).rst = s.rst := rfl
@[simp] theorem sent_fb (cmd : Command) (s : State) : (s.sent cmd).fb = s.fb := rfl
@[simp] theorem sent_req (cmd : Command) (s : State) : (s.sent cmd).req = s.req := rfl
@[simp] theorem sent_elapsed (cmd : Command) (s : State) : (s.sent cmd).elapsed = s.elapsed := rfl
@[simp] theorem sent_timeout (cmd : Command) (s : State) : (s.sent cmd).timeout = s.timeout := rfl
@[simp] theorem sent_acc (cmd : Command) (s : State) : (s.sent cmd).acc = s.acc := rfl
@[simp] theorem sent_cmdOp (cmd : Command) (s : State) : (s.sent cmd).cmdOp = s.cmdOp := rfl
@[simp] theorem sent_cmdSrc (cmd : Command) (s : State) : (s.sent cmd).cmdSrc = s.cmdSrc := rfl
@[simp] theorem sent_cmdIdx (cmd : Command) (s : State) : (s.sent cmd).cmdIdx = s.cmdIdx := rfl
@[simp] theorem sent_cfg (cmd : Command) (s : State) : (s.sent cmd).cfg = s.cfg := rfl
@[simp] theorem sent_env (cmd : Command) (s : State) : (s.sent cmd).env = s.env.dropBus (cmd.payload.length + 1) := rfl
@[simp] theorem sent_host (cmd : Command) (s : State) : (s.sent cmd).host = s.host := rfl
@[simp] theorem sent_trace (cmd : Command) (s : State) : (s.sent cmd).trace = s.trace ++ transmitEvents s.cfg cmd := rfl
@[simp] theorem sent_dcDraws (cmd : Command) (s : State) : (s.sent cmd).dcDraws = s.dcDraws := rfl

@[simp] theorem cut_state (cmd : Command) (n : Nat) (s : State) : (s.cut cmd n).state = s.state := rfl
@[simp] theorem cut_faultReason (cmd : Command) (n : Nat) (s : State) : (s.cut cmd n).faultReason = s.faultReason := rfl
@[simp] theorem cut_busyFlag (cmd : Command) (n : Nat) (s : State) : (s.cut cmd n).busyFlag = s.busyFlag := rfl
@[simp] theorem cut_phase (cmd : Command) (n : Nat) (s : State) : (s.cut cmd n).phase = s.phase := rfl
@[simp] theorem cut_cs (cmd : Command) (n : Nat) (s : State) : (s.cut cmd n).cs = s.cfg.csAssertLevel := rfl
@[simp] theorem cut_dc (cmd : Command) (n : Nat) (s : State) : (s.cut cmd n).dc = (if n = 0 then s.cfg.dcCommandLevel else dcData s.cfg) := rfl
@[simp] theorem cut_rst (cmd : Command) (n : Nat) (s : State) : (s.cut cmd n).rst = s.rst := rfl
@[simp] theorem cut_fb (cmd : Command) (n : Nat) (s : State) : (s.cut cmd n).fb = s.fb := rfl
@[simp] theorem cut_req (cmd : Command) (n : Nat) (s : State) : (s.cut cmd n).req = s.req := rfl
@[simp] theorem cut_elapsed (cmd : Command) (n : Nat) (s : State) : (s.cut cmd n).elapsed = s.elapsed := rfl
@[simp] theorem cut_timeout (cmd : Command) (n : Nat) (s : State) : (s.cut cmd n).timeout = s.timeout := rfl
@[simp] theorem cut_acc (cmd : Command) (n : Nat) (s : State) : (s.cut cmd n).acc = s.acc := rfl
@[simp] theorem cut_cmdOp (cmd : Command) (n : Nat) (s : State) : (s.cut cmd n).cmdOp = s.cmdOp := rfl
@[simp] theorem cut_cmdSrc (cmd : Command) (n : Nat) (s : State) : (s.cut cmd n).cmdSrc = s.cmdSrc := rfl
@[simp] theorem cut_cmdIdx (cmd : Command) (n : Nat) (s : State) : (s.cut cmd n).cmdIdx = s.cmdIdx := rfl
@[simp] theorem cut_cfg (cmd : Command) (n : Nat) (s : State) : (s.cut cmd n).cfg = s.cfg := rfl
@[simp] theorem cut_env (cmd : Command) (n : Nat) (s : State) : (s.cut cmd n).env = s.env.dropBus (n + 1) := rfl
@[simp] theorem cut_host (cmd : Command) (n : Nat) (s : State) : (s.cut cmd n).host = s.host := rfl
@[simp] theorem cut_trace (cmd : Command) (n : Nat) (s : State) : (s.cut cmd n).trace = s.trace ++ sentEvents s.cfg cmd (n + 1) := rfl
@[simp] theorem cut_dcDraws (cmd : Command) (n : Nat) (s : State) : (s.cut cmd n).dcDraws = s.dcDraws := rfl

/-! ### timeouts, bus faults, the reset pulse -/

@[simp] theorem takeTimeout_state (r : FaultReason) (s : State) : (s.takeTimeout r).state = .faulted := rfl
@[simp] theorem takeTimeout_faultReason (r : FaultReason) (s : State) : (s.takeTimeout r).faultReason = r := rfl
@[simp] theorem takeTimeout_busyFlag (r : FaultReason) (s : State) : (s.takeTimeout r).busyFlag = false := rfl
@[simp] theorem takeTimeout_phase (r : FaultReason) (s : State) : (s.takeTimeout r).phase = .idle := rfl
@[simp] theorem takeTimeout_cs (r : FaultReason) (s : State) : (s.takeTimeout r).cs = s.cs := rfl
@[simp] theorem takeTimeout_dc (r : FaultReason) (s : State) : (s.takeTimeout r).dc = s.dc := rfl
@[simp] theorem takeTimeout_rst (r : FaultReason) (s : State) : (s.takeTimeout r).rst = s.rst := rfl
@[simp] theorem takeTimeout_fb (r : FaultReason) (s : State) : (s.takeTimeout r).fb = s.fb := rfl
@[simp] theorem takeTimeout_req (r : FaultReason) (s : State) : (s.takeTimeout r).req = none := rfl
@[simp] theorem takeTimeout_elapsed (r : FaultReason) (s : State) : (s.takeTimeout r).elapsed = none := rfl
@[simp] theorem takeTimeout_timeout (r : FaultReason) (s : State) : (s.takeTimeout r).timeout = none := rfl
@[simp] theorem takeTimeout_acc (r : FaultReason) (s : State) : (s.takeTimeout r).acc = none := rfl
@[simp] theorem takeTimeout_cmdOp (r : FaultReason) (s : State) : (s.takeTimeout r).cmdOp = none := rfl
@[simp] theorem takeTimeout_cmdSrc (r : FaultReason) (s : State) : (s.takeTimeout r).cmdSrc = none := rfl
@[simp] theorem takeTimeout_cmdIdx (r : FaultReason) (s : State) : (s.takeTimeout r).cmdIdx = none := rfl
@[simp] theorem takeTimeout_cfg (r : FaultReason) (s : State) : (s.takeTimeout r).cfg = s.cfg := rfl
@[simp] theorem takeTimeout_env (r : FaultReason) (s : State) : (s.takeTimeout r).env = s.env := rfl
@[simp] theorem takeTimeout_host (r : FaultReason) (s : State) : (s.takeTimeout r).host = s.host := rfl
@[simp] theorem takeTimeout_trace (r : FaultReason) (s : State) : (s.takeTimeout r).trace = s.trace ++ [.rsp .timeout (timeoutData r)] := rfl
@[simp] theorem takeTimeout_dcDraws (r : FaultReason) (s : State) : (s.takeTimeout r).dcDraws = s.dcDraws := rfl

@[simp] theorem takeBusFault_state (s : State) : (s.takeBusFault).state = .faulted := rfl
@[simp] theorem takeBusFault_faultReason (s : State) : (s.takeBusFault).faultReason = .busFault := rfl
@[simp] theorem takeBusFault_busyFlag (s : State) : (s.takeBusFault).busyFlag = false := rfl
@[simp] theorem takeBusFault_phase (s : State) : (s.takeBusFault).phase = .idle := rfl
@[simp] theorem takeBusFault_cs (s : State) : (s.takeBusFault).cs = csIdle s.cfg := rfl
@[simp] theorem takeBusFault_dc (s : State) : (s.takeBusFault).dc = s.dc := rfl
@[simp] theorem takeBusFault_rst (s : State) : (s.takeBusFault).rst = s.rst := rfl
@[simp] theorem takeBusFault_fb (s : State) : (s.takeBusFault).fb = s.fb := rfl
@[simp] theorem takeBusFault_req (s : State) : (s.takeBusFault).req = none := rfl
@[simp] theorem takeBusFault_elapsed (s : State) : (s.takeBusFault).elapsed = none := rfl
@[simp] theorem takeBusFault_timeout (s : State) : (s.takeBusFault).timeout = none := rfl
@[simp] theorem takeBusFault_acc (s : State) : (s.takeBusFault).acc = none := rfl
@[simp] theorem takeBusFault_cmdOp (s : State) : (s.takeBusFault).cmdOp = none := rfl
@[simp] theorem takeBusFault_cmdSrc (s : State) : (s.takeBusFault).cmdSrc = none := rfl
@[simp] theorem takeBusFault_cmdIdx (s : State) : (s.takeBusFault).cmdIdx = none := rfl
@[simp] theorem takeBusFault_cfg (s : State) : (s.takeBusFault).cfg = s.cfg := rfl
@[simp] theorem takeBusFault_env (s : State) : (s.takeBusFault).env = s.env := rfl
@[simp] theorem takeBusFault_host (s : State) : (s.takeBusFault).host = s.host := rfl
@[simp] theorem takeBusFault_trace (s : State) : (s.takeBusFault).trace = s.trace ++ [.line .cs (csIdle s.cfg)] ++ [.rsp .busFault 0] := rfl
@[simp] theorem takeBusFault_dcDraws (s : State) : (s.takeBusFault).dcDraws = s.dcDraws := rfl

@[simp] theorem resetPulse_state (s : State) : (resetPulse s).state = s.state := rfl
@[simp] theorem resetPulse_faultReason (s : State) : (resetPulse s).faultReason = s.faultReason := rfl
@[simp] theorem resetPulse_busyFlag (s : State) : (resetPulse s).busyFlag = s.busyFlag := rfl
@[simp] theorem resetPulse_phase (s : State) : (resetPulse s).phase = s.phase := rfl
@[simp] theorem resetPulse_cs (s : State) : (resetPulse s).cs = s.cs := rfl
@[simp] theorem resetPulse_dc (s : State) : (resetPulse s).dc = s.dc := rfl
@[simp] theorem resetPulse_rst (s : State) : (resetPulse s).rst = rstIdle s.cfg := rfl
@[simp] theorem resetPulse_fb (s : State) : (resetPulse s).fb = s.fb := rfl
@[simp] theorem resetPulse_req (s : State) : (resetPulse s).req = s.req := rfl
@[simp] theorem resetPulse_elapsed (s : State) : (resetPulse s).elapsed = s.elapsed := rfl
@[simp] theorem resetPulse_timeout (s : State) : (resetPulse s).timeout = s.timeout := rfl
@[simp] theorem resetPulse_acc (s : State) : (resetPulse s).acc = s.acc := rfl
@[simp] theorem resetPulse_cmdOp (s : State) : (resetPulse s).cmdOp = s.cmdOp := rfl
@[simp] theorem resetPulse_cmdSrc (s : State) : (resetPulse s).cmdSrc = s.cmdSrc := rfl
@[simp] theorem resetPulse_cmdIdx (s : State) : (resetPulse s).cmdIdx = s.cmdIdx := rfl
@[simp] theorem resetPulse_cfg (s : State) : (resetPulse s).cfg = s.cfg := rfl
@[simp] theorem resetPulse_env (s : State) : (resetPulse s).env = s.env := rfl
@[simp] theorem resetPulse_host (s : State) : (resetPulse s).host = s.host := rfl
@[simp] theorem resetPulse_trace (s : State) : (resetPulse s).trace = s.trace ++ [.line .rst s.cfg.rstAssertLevel] ++ [.delay s.cfg.resetPulseUs]
      ++ [.line .rst (rstIdle s.cfg)] := rfl
@[simp] theorem resetPulse_dcDraws (s : State) : (resetPulse s).dcDraws = s.dcDraws := rfl

end Sys2Proof.Machine.State
end

