-- ==== Sys2Proof/Laws/BusyGate.lean ====
section
/-! SUPPORT. The busy gate: what `waitReady` does for every answer of the panel (42_busy_gate.md R150, R153),
and the one lemma that says all it can touch (R156). -/

namespace Sys2Proof.Machine

/-! ## The environment as a stream -/

@[simp] theorem Env.busyAt_dropBusy (e : Env) (n k : Nat) : (e.dropBusy n).busyAt k = e.busyAt (n + k) := by
  simp [Env.busyAt, Env.dropBusy, List.getD_eq_getElem?_getD]

@[simp] theorem Env.busAt_dropBus (e : Env) (n k : Nat) : (e.dropBus n).busAt k = e.busAt (n + k) := by
  simp [Env.busAt, Env.dropBus, List.getD_eq_getElem?_getD]

@[simp] theorem Env.busyAt_dropBus (e : Env) (n k : Nat) : (e.dropBus n).busyAt k = e.busyAt k := rfl

@[simp] theorem Env.busAt_dropBusy (e : Env) (n k : Nat) : (e.dropBusy n).busAt k = e.busAt k := rfl

@[simp] theorem Env.dropBusy_dropBusy (e : Env) (n k : Nat) : (e.dropBusy n).dropBusy k = e.dropBusy (n + k) := by
  simp [Env.dropBusy]

@[simp] theorem Env.dropBus_dropBus (e : Env) (n k : Nat) : (e.dropBus n).dropBus k = e.dropBus (n + k) := by
  simp [Env.dropBus]

@[simp] theorem Env.dropBusy_zero (e : Env) : e.dropBusy 0 = e := rfl

@[simp] theorem Env.dropBus_zero (e : Env) : e.dropBus 0 = e := rfl

theorem Env.dropBusy_dropBus (e : Env) (n k : Nat) : (e.dropBusy n).dropBus k = (e.dropBus k).dropBusy n := rfl

/-- Within `n + 1` samples the panel is idle at some first one, or busy at all of them. -/
theorem Env.idle_or_busy (e : Env) (c : Config) (n : Nat) :
    (∃ j ≤ n, e.idleAt c j) ∨ e.busyFor c (n + 1) := by
  induction n with
  | zero =>
    by_cases h : e.busyAt 0 = busyIdle c
    · exact .inl ⟨0, le_rfl, fun k hk => absurd hk (by omega), h⟩
    · refine .inr fun k hk => ?_
      obtain rfl : k = 0 := by omega
      simpa [busyIdle] using h
  | succ n ih =>
    rcases ih with ⟨j, hj, h⟩ | h
    · exact .inl ⟨j, by omega, h⟩
    · by_cases hi : e.busyAt (n + 1) = busyIdle c
      · exact .inl ⟨n + 1, le_rfl, fun k hk => h k hk, hi⟩
      · refine .inr fun k hk => ?_
        rcases Nat.lt_succ_iff_lt_or_eq.1 hk with hk | rfl
        · exact h k hk
        · simpa [busyIdle] using hi

/-- `n` writes all succeed, or there is a first one that fails. -/
theorem Env.ok_or_fails (e : Env) (n : Nat) : e.busOk n ∨ ∃ k < n, e.failsAt k := by
  induction n with
  | zero => exact .inl fun k hk => absurd hk (by omega)
  | succ n ih =>
    rcases ih with h | ⟨k, hk, h⟩
    · rcases hn : e.busAt n with _ | _
      · refine .inl fun k hk => ?_
        rcases Nat.lt_succ_iff_lt_or_eq.1 hk with hk | rfl
        · exact h k hk
        · exact hn
      · exact .inr ⟨n, by omega, h, hn⟩
    · exact .inr ⟨k, by omega, h⟩

/-! ## The loop -/

/-- A state after a wait: only the environment and the trace differ. -/
def State.polled (s : State) (samples : Nat) (es : List Event) : State :=
  { s with env := s.env.dropBusy samples, trace := s.trace ++ es }

@[simp] theorem State.polled_state (n : Nat) (es : List Event) (s : State) : (s.polled n es).state = s.state := rfl
@[simp] theorem State.polled_faultReason (n : Nat) (es : List Event) (s : State) : (s.polled n es).faultReason = s.faultReason := rfl
@[simp] theorem State.polled_busyFlag (n : Nat) (es : List Event) (s : State) : (s.polled n es).busyFlag = s.busyFlag := rfl
@[simp] theorem State.polled_phase (n : Nat) (es : List Event) (s : State) : (s.polled n es).phase = s.phase := rfl
@[simp] theorem State.polled_cs (n : Nat) (es : List Event) (s : State) : (s.polled n es).cs = s.cs := rfl
@[simp] theorem State.polled_dc (n : Nat) (es : List Event) (s : State) : (s.polled n es).dc = s.dc := rfl
@[simp] theorem State.polled_rst (n : Nat) (es : List Event) (s : State) : (s.polled n es).rst = s.rst := rfl
@[simp] theorem State.polled_fb (n : Nat) (es : List Event) (s : State) : (s.polled n es).fb = s.fb := rfl
@[simp] theorem State.polled_req (n : Nat) (es : List Event) (s : State) : (s.polled n es).req = s.req := rfl
@[simp] theorem State.polled_elapsed (n : Nat) (es : List Event) (s : State) : (s.polled n es).elapsed = s.elapsed := rfl
@[simp] theorem State.polled_timeout (n : Nat) (es : List Event) (s : State) : (s.polled n es).timeout = s.timeout := rfl
@[simp] theorem State.polled_acc (n : Nat) (es : List Event) (s : State) : (s.polled n es).acc = s.acc := rfl
@[simp] theorem State.polled_cmdOp (n : Nat) (es : List Event) (s : State) : (s.polled n es).cmdOp = s.cmdOp := rfl
@[simp] theorem State.polled_cmdSrc (n : Nat) (es : List Event) (s : State) : (s.polled n es).cmdSrc = s.cmdSrc := rfl
@[simp] theorem State.polled_cmdIdx (n : Nat) (es : List Event) (s : State) : (s.polled n es).cmdIdx = s.cmdIdx := rfl
@[simp] theorem State.polled_cfg (n : Nat) (es : List Event) (s : State) : (s.polled n es).cfg = s.cfg := rfl
@[simp] theorem State.polled_env (n : Nat) (es : List Event) (s : State) : (s.polled n es).env = s.env.dropBusy n := rfl
@[simp] theorem State.polled_host (n : Nat) (es : List Event) (s : State) : (s.polled n es).host = s.host := rfl
@[simp] theorem State.polled_trace (n : Nat) (es : List Event) (s : State) : (s.polled n es).trace = s.trace ++ es := rfl
@[simp] theorem State.polled_dcDraws (n : Nat) (es : List Event) (s : State) : (s.polled n es).dcDraws = s.dcDraws := rfl

theorem busyPolls_succ (c : Config) (j : Nat) :
    busyPolls c (j + 1) = [.sample c.busyActiveLevel, .delay c.pollDelayUs] ++ busyPolls c j := rfl

theorem sampleBusy_delay (s : State) :
    s.sampleBusy.2.delayUs s.cfg.pollDelayUs
      = s.polled 1 [.sample (s.env.busyAt 0), .delay s.cfg.pollDelayUs] := by
  simp [State.sampleBusy, State.delayUs, State.emit, State.polled]

theorem polled_polled (s : State) (n k : Nat) (es fs : List Event) :
    (s.polled n es).polled k fs = s.polled (n + k) (es ++ fs) := by
  simp [State.polled]

theorem durationWord_add {e bound : Word} {p : Nat} (h : e.toNat + p ≤ bound.toNat) :
    (e + durationWord p).toNat = e.toNat + p := by
  have := bound.isLt
  simp only [durationWord, BitVec.toNat_add, BitVec.toNat_ofNat]
  omega

/-- One turn of the loop. -/
theorem waitLoop_succ (bound : Word) (fuel : Nat) (e : Word) (s : State) :
    waitLoop bound (fuel + 1) e s
      = if s.env.busyAt 0 = busyIdle s.cfg then (.ok e, s.polled 1 [.sample (s.env.busyAt 0)])
        else if e.toNat + s.cfg.pollDelayUs > bound.toNat then (.timedOut, s.polled 1 [.sample (s.env.busyAt 0)])
        else waitLoop bound fuel (e + durationWord s.cfg.pollDelayUs)
          (s.polled 1 [.sample (s.env.busyAt 0), .delay s.cfg.pollDelayUs]) := by
  rw [← sampleBusy_delay]
  rfl

/-- The loop when the j-th sample from here is the first idle one and lies within the bound. -/
theorem waitLoop_idle (bound : Word) {c : Config} (j : Nat) :
    ∀ (fuel : Nat) (e : Word) (s : State), s.cfg = c → s.env.idleAt c j →
      e.toNat + j * c.pollDelayUs ≤ bound.toNat → j < fuel →
      waitLoop bound fuel e s
        = (.ok (BitVec.ofNat 32 (e.toNat + j * c.pollDelayUs)), s.polled (j + 1) (readyEvents c j)) := by
  induction j with
  | zero =>
    rintro (_ | fuel) e s rfl h hb hf
    · omega
    · simp [waitLoop_succ, h.2, readyEvents, busyPolls]
  | succ j ih =>
    rintro (_ | fuel) e s rfl h hb hf
    · omega
    · have hbusy : s.env.busyAt 0 = s.cfg.busyActiveLevel := h.1 0 (by omega)
      have hle : e.toNat + s.cfg.pollDelayUs ≤ bound.toNat := by
        have : (j + 1) * s.cfg.pollDelayUs = j * s.cfg.pollDelayUs + s.cfg.pollDelayUs := by ring
        omega
      rw [waitLoop_succ, hbusy, if_neg (by simp [busyIdle]), if_neg (by omega), ih fuel _ (s.polled 1 _) rfl]
      · rw [durationWord_add hle, polled_polled]
        simp [readyEvents, busyPolls_succ, State.polled, Nat.add_comm, Nat.add_left_comm, Nat.add_assoc, Nat.succ_mul]
      · refine ⟨fun k hk => ?_, ?_⟩
        · simpa [State.polled, Nat.add_comm] using h.1 (k + 1) (by omega)
        · simpa [State.polled, Nat.add_comm] using h.2
      · rw [durationWord_add hle]
        show e.toNat + s.cfg.pollDelayUs + j * s.cfg.pollDelayUs ≤ _
        have : (j + 1) * s.cfg.pollDelayUs = j * s.cfg.pollDelayUs + s.cfg.pollDelayUs := by ring
        omega
      · omega

/-- The loop when all samples up to the last one within the bound are busy. -/
theorem waitLoop_busy (bound : Word) {c : Config} (n : Nat) :
    ∀ (fuel : Nat) (e : Word) (s : State), s.cfg = c → s.env.busyFor c (n + 1) →
      e.toNat + n * c.pollDelayUs ≤ bound.toNat → bound.toNat < e.toNat + (n + 1) * c.pollDelayUs → n < fuel →
      waitLoop bound fuel e s = (.timedOut, s.polled (n + 1) (timeoutEvents c n)) := by
  induction n with
  | zero =>
    rintro (_ | fuel) e s rfl h hb hb' hf
    · omega
    · have hbusy : s.env.busyAt 0 = s.cfg.busyActiveLevel := h 0 (by omega)
      rw [waitLoop_succ, hbusy, if_neg (by simp [busyIdle]), if_pos (by omega)]
      simp [timeoutEvents, busyPolls]
  | succ n ih =>
    rintro (_ | fuel) e s rfl h hb hb' hf
    · omega
    · have hbusy : s.env.busyAt 0 = s.cfg.busyActiveLevel := h 0 (by omega)
      have h1 : (n + 1) * s.cfg.pollDelayUs = n * s.cfg.pollDelayUs + s.cfg.pollDelayUs := by ring
      have h2 : (n + 1 + 1) * s.cfg.pollDelayUs = n * s.cfg.pollDelayUs + 2 * s.cfg.pollDelayUs := by ring
      have hle : e.toNat + s.cfg.pollDelayUs ≤ bound.toNat := by omega
      rw [waitLoop_succ, hbusy, if_neg (by simp [busyIdle]), if_neg (by omega), ih fuel _ (s.polled 1 _) rfl]
      · rw [polled_polled]
        simp [timeoutEvents, busyPolls_succ, State.polled, Nat.add_comm]
      · intro k hk
        simpa [State.polled, Nat.add_comm] using h (k + 1) (by omega)
      · rw [durationWord_add hle]
        show e.toNat + s.cfg.pollDelayUs + n * s.cfg.pollDelayUs ≤ _
        omega
      · rw [durationWord_add hle]
        show _ < e.toNat + s.cfg.pollDelayUs + (n + 1) * s.cfg.pollDelayUs
        omega
      · omega

/-- `wait_ready` on a panel that is idle first at sample `j`, within the bound (R153). -/
theorem waitReady_idle {bound : Word} {s : State} {j : Nat} (hp : 1 ≤ s.cfg.pollDelayUs)
    (h : s.env.idleAt s.cfg j) (hj : j ≤ pollCount s.cfg bound.toNat) :
    waitReady bound s = (.ok (BitVec.ofNat 32 (j * s.cfg.pollDelayUs)), s.polled (j + 1) (readyEvents s.cfg j)) := by
  have hm : j * s.cfg.pollDelayUs ≤ bound.toNat := (Nat.le_div_iff_mul_le hp).1 hj
  rw [waitReady, waitLoop_idle bound j _ _ _ rfl h (by simpa using hm) (by simp only [pollCount] at hj; omega)]
  simp

/-- `wait_ready` on a panel that is busy at every sample within the bound (R153). -/
theorem waitReady_busy {bound : Word} {s : State} (hp : 1 ≤ s.cfg.pollDelayUs)
    (h : s.env.busyFor s.cfg (pollCount s.cfg bound.toNat + 1)) :
    waitReady bound s
      = (.timedOut, s.polled (pollCount s.cfg bound.toNat + 1) (timeoutEvents s.cfg (pollCount s.cfg bound.toNat))) := by
  rw [waitReady, waitLoop_busy bound (pollCount s.cfg bound.toNat) _ _ _ rfl h]
  · simpa [pollCount] using Nat.div_mul_le_self bound.toNat s.cfg.pollDelayUs
  · simpa [pollCount, Nat.mul_comm] using Nat.lt_mul_div_succ bound.toNat hp
  · simp [pollCount]

/-- Everything a wait can do: it takes samples, and its events are samples and delays (R156). -/
theorem waitLoop_shape (bound : Word) (fuel : Nat) (e : Word) (s : State) :
    ∃ n es, (waitLoop bound fuel e s).2 = s.polled n es ∧
      ∀ x ∈ es, (∃ v, x = .sample v) ∨ ∃ d, x = .delay d := by
  induction fuel generalizing e s with
  | zero => exact ⟨0, [], by simp [waitLoop, State.polled], by simp⟩
  | succ fuel ih =>
    rw [waitLoop_succ]
    split
    · exact ⟨1, _, rfl, by simp⟩
    · split
      · exact ⟨1, _, rfl, by simp⟩
      · obtain ⟨n, es, h1, h2⟩ := ih (e + durationWord s.cfg.pollDelayUs)
          (s.polled 1 [.sample (s.env.busyAt 0), .delay s.cfg.pollDelayUs])
        refine ⟨1 + n, _, h1.trans (polled_polled ..), fun x hx => ?_⟩
        rcases List.mem_append.1 hx with hx | hx
        · simp at hx; rcases hx with rfl | rfl <;> simp
        · exact h2 x hx

/-- Everything `wait_ready` can do (R156). -/
theorem waitReady_shape (bound : Word) (s : State) :
    ∃ n es, (waitReady bound s).2 = s.polled n es ∧ ∀ x ∈ es, (∃ v, x = .sample v) ∨ ∃ d, x = .delay d :=
  waitLoop_shape ..

end Sys2Proof.Machine
end

