-- ==== Sys2Proof/Laws/CommandEncoder.lean ====
section
/-! SUPPORT. The command encoder: what `transmit` does for every answer of the transport (41_command_encoder.md
R131, R133), stated once; the meanings' proofs cite these and never unfold `transmit`. -/

namespace Sys2Proof.Machine

/-- The part of a payload written so far, after the bytes `bs`. -/
def State.wrote (s : State) (bs : List Byte) : State :=
  { s with env := s.env.dropBus bs.length, trace := s.trace ++ bs.map .bus }

theorem wrote_wrote (s : State) (bs cs : List Byte) : (s.wrote bs).wrote cs = s.wrote (bs ++ cs) := by
  simp [State.wrote]

theorem busWrite_eq (b : Byte) (s : State) : s.busWrite b = (s.env.busAt 0, s.wrote [b]) := rfl

theorem sendBytes_ok (bs : List Byte) : ∀ s : State, s.env.busOk bs.length → sendBytes bs s = (.ok, s.wrote bs) := by
  induction bs with
  | nil => intro s _; simp [sendBytes, State.wrote]
  | cons b bs ih =>
    intro s h
    have h0 : s.env.busAt 0 = .ok := h 0 (by simp)
    simp only [sendBytes, busWrite_eq, h0]
    rw [ih]
    · rw [wrote_wrote]; rfl
    · intro k hk
      simpa [State.wrote, Nat.add_comm] using h (k + 1) (by simpa using hk)

theorem sendBytes_err (bs : List Byte) : ∀ (s : State) (n : Nat), s.env.failsAt n → n < bs.length →
    sendBytes bs s = (.err, s.wrote (bs.take (n + 1))) := by
  induction bs with
  | nil => intro s n _ hn; simp at hn
  | cons b bs ih =>
    rintro s (_ | n) h hn
    · have h0 : s.env.busAt 0 = .err := h.2
      simp [sendBytes, busWrite_eq, h0]
    · have h0 : s.env.busAt 0 = .ok := h.1 0 (by omega)
      simp only [sendBytes, busWrite_eq, h0]
      rw [ih _ n]
      · rw [wrote_wrote]; rfl
      · refine ⟨fun k hk => ?_, ?_⟩
        · simpa [State.wrote, Nat.add_comm] using h.1 (k + 1) (by omega)
        · simpa [State.wrote, Nat.add_comm] using h.2
      · simpa using hn

/-- The first two events of a transaction and its opcode byte. -/
theorem transmit_head (cmd : Command) (s : State) :
    transmit cmd s =
      match s.env.busAt 0, s.cut cmd 0 with
      | .err, s1 => (.err, s1)
      | .ok, s1 =>
        match sendPayload cmd.payload s1 with
        | (.err, s2) => (.err, s2)
        | (.ok, s2) => (.ok, s2.setLine .cs (csIdle s2.cfg)) := by
  have : (((s.setLine .dc s.cfg.dcCommandLevel).setLine .cs s.cfg.csAssertLevel).busWrite cmd.opcode)
      = (s.env.busAt 0, s.cut cmd 0) := by
    simp [State.setLine, State.busWrite, State.cut, sentEvents]
  simp only [transmit, this]
  cases s.env.busAt 0 <;> rfl

/-- A transaction whose byte writes all succeed (R131). -/
theorem transmit_ok {cmd : Command} {s : State} (h : s.env.busOk (cmd.payload.length + 1)) :
    transmit cmd s = (.ok, s.sent cmd) := by
  have h0 : s.env.busAt 0 = .ok := h 0 (by omega)
  rw [transmit_head, h0]
  rcases hp : cmd.payload with _ | ⟨b, bs⟩
  · simp [sendPayload, State.cut, State.setLine, State.sent, transmitEvents, sentEvents, hp, dcAfter]
  · have hs : sendBytes (b :: bs) ((s.cut cmd 0).setLine .dc (dcData (s.cut cmd 0).cfg))
        = (.ok, ((s.cut cmd 0).setLine .dc (dcData (s.cut cmd 0).cfg)).wrote (b :: bs)) := by
      refine sendBytes_ok _ _ fun k hk => ?_
      simpa [State.cut, Nat.add_comm] using h (k + 1) (by rw [hp]; omega)
    simp only [sendPayload, hs]
    simp [State.cut, State.setLine, State.wrote, State.sent, transmitEvents, sentEvents, hp, dcAfter,
      Nat.add_comm 1]

/-- A transaction whose n-th byte write fails (R133: no further byte; the abort is the caller's). -/
theorem transmit_err {cmd : Command} {s : State} {n : Nat} (h : s.env.failsAt n) (hn : n < cmd.payload.length + 1) :
    transmit cmd s = (.err, s.cut cmd n) := by
  rw [transmit_head]
  rcases n with _ | n
  · simp [h.2]
  · have h0 : s.env.busAt 0 = .ok := h.1 0 (by omega)
    rw [h0]
    rcases hp : cmd.payload with _ | ⟨b, bs⟩
    · simp [hp] at hn
    · have hs : sendBytes (b :: bs) ((s.cut cmd 0).setLine .dc (dcData (s.cut cmd 0).cfg))
          = (.err, ((s.cut cmd 0).setLine .dc (dcData (s.cut cmd 0).cfg)).wrote ((b :: bs).take (n + 1))) := by
        refine sendBytes_err _ _ n ⟨fun k hk => ?_, ?_⟩ ?_
        · simpa [State.cut, Nat.add_comm] using h.1 (k + 1) (by omega)
        · simpa [State.cut, Nat.add_comm] using h.2
        · simpa [hp] using hn
      simp only [sendPayload, hs]
      have hl : n + 1 ≤ (b :: bs).length := by simpa [hp, Nat.lt_succ_iff] using hn
      simp only [List.length_cons] at hl
      simp [State.cut, State.setLine, State.wrote, sentEvents, hp, Nat.add_comm, Nat.min_eq_left (show n ≤ bs.length by omega)]

/-- Everything `transmit` can do. -/
theorem transmit_cases (cmd : Command) (s : State) :
    (s.env.busOk (cmd.payload.length + 1) ∧ transmit cmd s = (.ok, s.sent cmd)) ∨
    ∃ n < cmd.payload.length + 1, s.env.failsAt n ∧ transmit cmd s = (.err, s.cut cmd n) := by
  rcases s.env.ok_or_fails (cmd.payload.length + 1) with h | ⟨n, hn, h⟩
  · exact .inl ⟨h, transmit_ok h⟩
  · exact .inr ⟨n, hn, h, transmit_err h hn⟩

/-- The two outcomes exclude each other. -/
theorem Env.busOk_not_failsAt {e : Env} {n k : Nat} (h : e.busOk n) (hk : k < n) : ¬ e.failsAt k := fun h' => by
  have := h k hk
  rw [h'.2] at this
  cases this

/-- The abort of a cut transaction (R133, 60_exceptions.md R189). -/
theorem takeBusFault_cut (s : State) (cmd : Command) (n : Nat) :
    (s.cut cmd n).takeBusFault =
      { s with state := .faulted, faultReason := .busFault, cs := csIdle s.cfg,
               dc := if n = 0 then s.cfg.dcCommandLevel else dcData s.cfg,
               env := s.env.dropBus (n + 1) }.finished
        (sentEvents s.cfg cmd (n + 1) ++ [Event.line .cs (csIdle s.cfg), Event.rsp .busFault 0]) := by
  simp [State.takeBusFault, State.takeFault, State.respond, State.emit, State.toIdle, State.clearScratch,
    State.setLine, State.cut, State.finished]

theorem respond_eq_finished (st : Status) (d : Word) (s : State) : s.respond st d = s.finished [.rsp st d] := rfl

end Sys2Proof.Machine
end

