-- ==== Sys2Proof/Laws/Encoding.lean ====
section
/-! SUPPORT. The request word and its fields (30_encoding.md R81), the color codes (R83), and the words of the
encoder field by field. -/

namespace Sys2Proof

/-- The fields of a word put together. -/
@[simp] theorem ReqFields.ofWord_toWord (f : ReqFields) : ReqFields.ofWord f.toWord = f := by
  obtain ⟨op, rsv, color, x, y⟩ := f
  simp only [ReqFields.ofWord, ReqFields.toWord, ReqFields.mk.injEq]
  refine ⟨?_, ?_, ?_, ?_, ?_⟩ <;> ext i hi <;> simp [BitVec.getElem_extractLsb'] <;> grind

/-- A word is its fields put together. -/
@[simp] theorem ReqFields.toWord_ofWord (w : ReqWord) : (ReqFields.ofWord w).toWord = w := by
  ext i hi
  simp only [ReqFields.ofWord, ReqFields.toWord]
  simp
  grind

/-- The timeout operand is the two coordinate fields read as one (R81). -/
theorem reqTimeout_toWord (f : ReqFields) : reqTimeout f.toWord = f.x ++ f.y := by
  obtain ⟨op, rsv, color, x, y⟩ := f
  simp only [reqTimeout, ReqFields.toWord]
  ext i hi
  simp [BitVec.getElem_extractLsb']
  grind

/-- The word of WAIT_READY by its fields. -/
theorem waitReady_word (t : Word) :
    ((0x70 : BitVec 8) ++ t : ReqWord)
      = ({ op := 0x7, rsv := 0, color := 0, x := t.extractLsb' 16 16, y := t.extractLsb' 0 16 } : ReqFields).toWord := by
  have h : (0x70 : BitVec 8) = (0x7 : BitVec 4) ++ ((0 : BitVec 2) ++ (0 : BitVec 2)) := by decide
  rw [h]
  ext i hi
  simp only [ReqFields.toWord]
  simp
  grind

@[simp] theorem colorOfCode_code (c : Color) : colorOfCode c.code = some c := by cases c <;> rfl

theorem code_of_colorOfCode {b : BitVec 2} {c : Color} (h : colorOfCode b = some c) : c.code = b := by
  revert b c
  decide

theorem colorOfCode_eq_none {b : BitVec 2} : colorOfCode b = none ↔ b = 0b11 := by
  revert b
  decide

theorem ReqFields.ofWord_inj {v w : ReqWord} : ReqFields.ofWord v = ReqFields.ofWord w ↔ v = w :=
  ⟨fun h => by rw [← ReqFields.toWord_ofWord v, h, ReqFields.toWord_ofWord], fun h => by rw [h]⟩

/-- Mask and match, field by field (30_encoding.md R82). -/
theorem and_eq_iff (w m p : ReqWord) :
    w &&& m = p ↔
      (ReqFields.ofWord w).op &&& (ReqFields.ofWord m).op = (ReqFields.ofWord p).op
      ∧ (ReqFields.ofWord w).rsv &&& (ReqFields.ofWord m).rsv = (ReqFields.ofWord p).rsv
      ∧ (ReqFields.ofWord w).color &&& (ReqFields.ofWord m).color = (ReqFields.ofWord p).color
      ∧ (ReqFields.ofWord w).x &&& (ReqFields.ofWord m).x = (ReqFields.ofWord p).x
      ∧ (ReqFields.ofWord w).y &&& (ReqFields.ofWord m).y = (ReqFields.ofWord p).y := by
  rw [← ReqFields.ofWord_inj]
  simp [ReqFields.ofWord, BitVec.extractLsb'_and]

end Sys2Proof
end

