-- ==== Sys2Proof/Laws/Events.lean ====
section
/-! SUPPORT. Event sequences: how the views of a trace (lines, panel bytes, framing) go over `++`, and what they
say of the closed forms of Machine/Trace.lean. -/

namespace Sys2Proof.Machine

/-! ## Views over `++` -/

@[simp] theorem lineAfter_append (l : Line) (es fs : List Event) :
    ∀ v, lineAfter l v (es ++ fs) = lineAfter l (lineAfter l v es) fs := by
  induction es with
  | nil => intro v; rfl
  | cons e es ih => intro v; cases e <;> simp [lineAfter, ih]

@[simp] theorem resetHistory_append (es fs : List Event) :
    resetHistory (es ++ fs) = resetHistory es ++ resetHistory fs := by
  induction es with
  | nil => rfl
  | cons e es ih =>
    cases e with
    | line l v => cases l <;> simp [resetHistory, ih]
    | bus b => simp [resetHistory, ih]
    | delay n => simp [resetHistory, ih]
    | sample v => simp [resetHistory, ih]
    | rsp st d => simp [resetHistory, ih]

theorem panelBytes_append (es fs : List Event) : ∀ dc cs, panelBytes dc cs (es ++ fs)
    = panelBytes dc cs es ++ panelBytes (lineAfter .dc dc es) (lineAfter .cs cs es) fs := by
  induction es with
  | nil => intro dc cs; rfl
  | cons e es ih =>
    intro dc cs
    cases e with
    | line l v => cases l <;> simp [panelBytes, lineAfter, ih]
    | bus b => simp [panelBytes, lineAfter, ih]
    | delay n => simp [panelBytes, lineAfter, ih]
    | sample v => simp [panelBytes, lineAfter, ih]
    | rsp st d => simp [panelBytes, lineAfter, ih]

theorem commandBytes_append (c : Config) (dc cs : Level) (es fs : List Event) : commandBytes c dc cs (es ++ fs)
    = commandBytes c dc cs es ++ commandBytes c (lineAfter .dc dc es) (lineAfter .cs cs es) fs := by
  simp [commandBytes, panelBytes_append]

theorem Framing.run_append (c : Config) (es fs : List Event) : ∀ f dc, Framing.run c f dc (es ++ fs)
    = (Framing.run c f dc es).bind fun p => Framing.run c p.1 p.2 fs := by
  induction es with
  | nil => intro f dc; rfl
  | cons e es ih =>
    intro f dc
    simp only [List.cons_append, Framing.run]
    cases Framing.next c f dc e with
    | none => rfl
    | some p => exact ih p.1 p.2

/-! ## Events that leave every line alone: samples, delays, responses -/

/-- Whether an event is a sample, a delay or a response. -/
def Event.isQuiet : Event → Bool
  | .line _ _ => false
  | .bus _ => false
  | .delay _ => true
  | .sample _ => true
  | .rsp _ _ => true

theorem lineAfter_quiet (l : Line) {es : List Event} (h : ∀ e ∈ es, e.isQuiet = true) (v : Level) :
    lineAfter l v es = v := by
  induction es with
  | nil => rfl
  | cons e es ih =>
    have he := h e (by simp)
    have ih := ih fun x hx => h x (by simp [hx])
    cases e <;> simp_all [lineAfter, Event.isQuiet]

theorem resetHistory_quiet {es : List Event} (h : ∀ e ∈ es, e.isQuiet = true) : resetHistory es = [] := by
  induction es with
  | nil => rfl
  | cons e es ih =>
    have he := h e (by simp)
    have ih := ih fun x hx => h x (by simp [hx])
    cases e <;> simp_all [resetHistory, Event.isQuiet]

theorem panelBytes_quiet {es : List Event} (h : ∀ e ∈ es, e.isQuiet = true) (dc cs : Level) :
    panelBytes dc cs es = [] := by
  induction es with
  | nil => rfl
  | cons e es ih =>
    have he := h e (by simp)
    have ih := ih fun x hx => h x (by simp [hx])
    cases e <;> simp_all [panelBytes, Event.isQuiet]

theorem run_quiet (c : Config) {es : List Event} (h : ∀ e ∈ es, e.isQuiet = true) (dc : Level) :
    Framing.run c .deselected dc es = some (.deselected, dc) := by
  induction es with
  | nil => rfl
  | cons e es ih =>
    have he := h e (by simp)
    have ih := ih fun x hx => h x (by simp [hx])
    cases e <;> simp_all [Framing.run, Framing.next, Event.isQuiet]

theorem busyPolls_quiet (c : Config) (j : Nat) : ∀ e ∈ busyPolls c j, e.isQuiet = true := by
  induction j with
  | zero => simp [busyPolls]
  | succ j ih => simp [busyPolls, Event.isQuiet]; exact ih

theorem readyEvents_quiet (c : Config) (j : Nat) : ∀ e ∈ readyEvents c j, e.isQuiet = true := by
  intro e he
  rcases List.mem_append.1 he with he | he
  · exact busyPolls_quiet c j e he
  · simp at he; simp [he, Event.isQuiet]

theorem timeoutEvents_quiet (c : Config) (n : Nat) : ∀ e ∈ timeoutEvents c n, e.isQuiet = true := by
  intro e he
  rcases List.mem_append.1 he with he | he
  · exact busyPolls_quiet c n e he
  · simp at he; simp [he, Event.isQuiet]

/-! ## Transactions -/

theorem dcData_ne (c : Config) : dcData c ≠ c.dcCommandLevel := by simp [dcData]

theorem csIdle_ne (c : Config) : c.csAssertLevel ≠ csIdle c := by simp [csIdle]

@[simp] theorem lineAfter_map_bus (l : Line) (bs : List Byte) (v : Level) :
    lineAfter l v (bs.map Event.bus) = v := by
  induction bs generalizing v with
  | nil => rfl
  | cons b bs ih => exact ih v

theorem resetHistory_map_bus (bs : List Byte) : resetHistory (bs.map Event.bus) = [] := by
  induction bs with
  | nil => rfl
  | cons b bs ih => simpa [resetHistory] using ih

theorem panelBytes_map_bus (dc cs : Level) (bs : List Byte) :
    panelBytes dc cs (bs.map Event.bus) = bs.map fun b => (b, dc, cs) := by
  induction bs with
  | nil => rfl
  | cons b bs ih => simpa [panelBytes] using ih

/-- The lines after the first `n + 1` byte writes of a transaction. -/
theorem lineAfter_sentEvents (c : Config) (cmd : Command) (n : Nat) (l : Line) (v : Level) :
    lineAfter l v (sentEvents c cmd (n + 1)) =
      match l with
      | .cs => c.csAssertLevel
      | .dc => if n = 0 then c.dcCommandLevel else dcData c
      | .rst => v := by
  rcases n with _ | n <;> cases l <;> simp [sentEvents, lineAfter, -List.map_take]

/-- The lines after a whole transaction. -/
theorem lineAfter_transmitEvents (c : Config) (cmd : Command) (l : Line) (v : Level) :
    lineAfter l v (transmitEvents c cmd) =
      match l with
      | .cs => csIdle c
      | .dc => dcAfter c cmd
      | .rst => v := by
  cases l <;> simp [transmitEvents, lineAfter_sentEvents, lineAfter, dcAfter]

theorem resetHistory_sentEvents (c : Config) (cmd : Command) (n : Nat) :
    resetHistory (sentEvents c cmd n) = [] := by
  rcases n with _ | _ | n <;> simp [sentEvents, resetHistory, -List.map_take, resetHistory_map_bus]

theorem resetHistory_transmitEvents (c : Config) (cmd : Command) : resetHistory (transmitEvents c cmd) = [] := by
  simp [transmitEvents, resetHistory_sentEvents, resetHistory]

theorem run_map_bus (c : Config) (dc : Level) (bs : List Byte) :
    Framing.run c .dataPhase dc (bs.map Event.bus) = some (.dataPhase, dc) := by
  induction bs with
  | nil => rfl
  | cons b bs ih => simpa [Framing.run, Framing.next] using ih

/-- A transaction cut after `n + 1` byte writes and then closed keeps the framing discipline (R133, R140). -/
theorem run_sentEvents_closed (c : Config) (cmd : Command) (n : Nat) (dc : Level) :
    Framing.run c .deselected dc (sentEvents c cmd (n + 1) ++ [Event.line .cs (csIdle c)])
      = some (.deselected, if n = 0 then c.dcCommandLevel else dcData c) := by
  have hne := csIdle_ne c
  rcases n with _ | n
  · simp [sentEvents, Framing.run, Framing.next, hne]
  · simp [sentEvents, Framing.run, Framing.next, hne, Framing.run_append, -List.map_take, run_map_bus]

/-- A whole transaction keeps the framing discipline (R140). -/
theorem run_transmitEvents (c : Config) (cmd : Command) (dc : Level) :
    Framing.run c .deselected dc (transmitEvents c cmd) = some (.deselected, dcAfter c cmd) := by
  rw [transmitEvents, run_sentEvents_closed]
  simp [dcAfter]

/-- The bytes of a whole transaction with the levels the panel sees. -/
theorem panelBytes_transmitEvents (c : Config) (cmd : Command) (dc cs : Level) :
    panelBytes dc cs (transmitEvents c cmd)
      = (cmd.opcode, c.dcCommandLevel, c.csAssertLevel)
          :: cmd.payload.map fun b => (b, dcData c, c.csAssertLevel) := by
  obtain ⟨op, pl⟩ := cmd
  rcases pl with _ | ⟨b, bs⟩
  · simp [transmitEvents, sentEvents, panelBytes]
  · simp [transmitEvents, sentEvents, panelBytes, panelBytes_append, panelBytes_map_bus]

/-- The one command-level byte of a whole transaction is its opcode. -/
theorem commandBytes_transmitEvents (c : Config) (cmd : Command) (dc cs : Level) :
    commandBytes c dc cs (transmitEvents c cmd) = [cmd.opcode] := by
  have := dcData_ne c
  simp [commandBytes, panelBytes_transmitEvents, List.filter_map, Function.comp_def, this]

/-! ## Runs: what an operation may touch besides its own registers -/

/-- `t` comes from `s` by emitting `es`: the configuration, the host's inputs and the count of drawn levels stay,
and every line follows its events. Closed under composition; every shared operation has it. -/
structure Ran (s t : State) (es : List Event) : Prop where
  trace   : t.trace = s.trace ++ es
  cfg     : t.cfg = s.cfg
  host    : t.host = s.host
  dcDraws : t.dcDraws = s.dcDraws
  cs      : t.cs = lineAfter .cs s.cs es
  dc      : t.dc = lineAfter .dc s.dc es
  rst     : t.rst = lineAfter .rst s.rst es

theorem Ran.refl (s : State) : Ran s s [] := ⟨by simp, rfl, rfl, rfl, rfl, rfl, rfl⟩

theorem Ran.trans {s t u : State} {es fs : List Event} (h : Ran s t es) (h' : Ran t u fs) : Ran s u (es ++ fs) :=
  ⟨by rw [h'.trace, h.trace, List.append_assoc], by rw [h'.cfg, h.cfg], by rw [h'.host, h.host],
    by rw [h'.dcDraws, h.dcDraws], by rw [h'.cs, h.cs, lineAfter_append], by rw [h'.dc, h.dc, lineAfter_append],
    by rw [h'.rst, h.rst, lineAfter_append]⟩

theorem ran_setLine (l : Line) (v : Level) (s : State) : Ran s (s.setLine l v) [.line l v] := by
  cases l <;> exact ⟨rfl, rfl, rfl, rfl, rfl, rfl, rfl⟩

theorem ran_delayUs (n : Nat) (s : State) : Ran s (s.delayUs n) [.delay n] := ⟨rfl, rfl, rfl, rfl, rfl, rfl, rfl⟩

theorem ran_respond (st : Status) (d : Word) (s : State) : Ran s (s.respond st d) [.rsp st d] :=
  ⟨rfl, rfl, rfl, rfl, rfl, rfl, rfl⟩

theorem ran_takeFault (r : FaultReason) (st : Status) (d : Word) (s : State) : Ran s (s.takeFault r st d) [.rsp st d] :=
  ⟨rfl, rfl, rfl, rfl, rfl, rfl, rfl⟩

theorem ran_takeBusFault (s : State) :
    Ran s s.takeBusFault ([.line .cs (csIdle s.cfg)] ++ [.rsp .busFault 0]) :=
  (ran_setLine _ _ s).trans (ran_takeFault _ _ _ _)

theorem ran_polled (s : State) (n : Nat) {es : List Event} (h : ∀ e ∈ es, e.isQuiet = true) : Ran s (s.polled n es) es :=
  ⟨rfl, rfl, rfl, rfl, (lineAfter_quiet _ h _).symm, (lineAfter_quiet _ h _).symm, (lineAfter_quiet _ h _).symm⟩

theorem ran_sent (s : State) (cmd : Command) : Ran s (s.sent cmd) (transmitEvents s.cfg cmd) :=
  ⟨rfl, rfl, rfl, rfl, by simp [lineAfter_transmitEvents], by simp [lineAfter_transmitEvents],
    by simp [lineAfter_transmitEvents]⟩

theorem ran_cut (s : State) (cmd : Command) (n : Nat) : Ran s (s.cut cmd n) (sentEvents s.cfg cmd (n + 1)) :=
  ⟨rfl, rfl, rfl, rfl, by rw [lineAfter_sentEvents]; rfl, by rw [lineAfter_sentEvents]; rfl,
    by rw [lineAfter_sentEvents]; rfl⟩

/-- A wait emits quiet events only. -/
theorem waitReady_ran (bound : Word) (s : State) :
    ∃ n es, (waitReady bound s).2 = s.polled n es ∧ ∀ e ∈ es, e.isQuiet = true := by
  obtain ⟨n, es, h1, h2⟩ := waitReady_shape bound s
  refine ⟨n, es, h1, fun e he => ?_⟩
  rcases h2 e he with ⟨v, rfl⟩ | ⟨d, rfl⟩ <;> rfl

end Sys2Proof.Machine
end

