-- ==== Sys2Proof/Laws/Memory.lean ====
section
/-! SUPPORT. The pixel store: read after write, the canonical form kept by every operation, and that equal
contents are equal stores (20_memory.md R51, R52; 40_framebuffer.md R111, R113). -/

namespace Sys2Proof.Machine.Memory

@[simp] theorem read_nil (a : Nat) : Memory.read a [] = .white := rfl

/-- A cell below every listed address is White. -/
theorem read_of_lt {a : Nat} {m : Memory} (h : ∀ p ∈ m, a < p.1) : m.read a = .white := by
  induction m with
  | nil => rfl
  | cons p m ih =>
    obtain ⟨b, u⟩ := p
    have hb : a < b := h (b, u) (by simp)
    have : a ≠ b := by omega
    simp only [Memory.read, if_neg this]
    exact ih fun q hq => h q (by simp [hq])

theorem read_write_same {m : Memory} (a : Nat) (v : Color)
    (h : m.Pairwise fun p q => p.1 < q.1) : (m.write a v).read a = v := by
  induction m with
  | nil => by_cases hv : v = .white <;> simp [Memory.write, Memory.read, hv]
  | cons p m ih =>
    obtain ⟨b, u⟩ := p
    obtain ⟨h1, h2⟩ := List.pairwise_cons.1 h
    rcases Nat.lt_trichotomy a b with hab | rfl | hab
    · by_cases hv : v = .white
      · subst hv
        simp only [Memory.write, if_pos hab, if_true]
        exact read_of_lt fun q hq => by
          rcases List.mem_cons.1 hq with rfl | hq
          · exact hab
          · exact Nat.lt_trans hab (h1 q hq)
      · simp [Memory.write, hab, hv, Memory.read]
    · by_cases hv : v = .white
      · subst hv
        simpa [Memory.write] using read_of_lt h1
      · simp [Memory.write, hv, Memory.read]
    · have h3 : ¬ a < b := by omega
      have h4 : a ≠ b := by omega
      simp [Memory.write, h3, h4, Memory.read, ih h2]

theorem read_write_other {m : Memory} {a a' : Nat} (v : Color) (hne : a' ≠ a) :
    (m.write a v).read a' = m.read a' := by
  induction m with
  | nil => by_cases hv : v = .white <;> simp [Memory.write, Memory.read, hv, hne]
  | cons p m ih =>
    obtain ⟨b, u⟩ := p
    simp only [Memory.write]
    split
    · split <;> simp [Memory.read, hne]
    · split
      · next hab =>
        subst hab
        split <;> simp [Memory.read, hne]
      · simp [Memory.read, ih]

/-- Read after write, both cases. -/
theorem read_write {m : Memory} (a a' : Nat) (v : Color) (h : m.Pairwise fun p q => p.1 < q.1) :
    (m.write a v).read a' = if a' = a then v else m.read a' := by
  split
  · next h' => subst h'; exact read_write_same a' v h
  · next h' => exact read_write_other v h'

theorem mem_write {m : Memory} {a : Nat} {v : Color} {p : Nat × Color} (h : p ∈ m.write a v) :
    p ∈ m ∨ (p = (a, v) ∧ v ≠ .white) := by
  induction m with
  | nil =>
    by_cases hv : v = .white
    · simp [Memory.write, hv] at h
    · simp [Memory.write, hv] at h
      exact .inr ⟨h, hv⟩
  | cons q m ih =>
    obtain ⟨b, u⟩ := q
    simp only [Memory.write] at h
    split at h
    · split at h
      · exact .inl h
      · next hv =>
        rcases List.mem_cons.1 h with rfl | h
        · exact .inr ⟨rfl, hv⟩
        · exact .inl h
    · split at h
      · split at h
        · exact .inl (List.mem_cons_of_mem _ h)
        · next hv =>
          rcases List.mem_cons.1 h with rfl | h
          · exact .inr ⟨rfl, hv⟩
          · exact .inl (List.mem_cons_of_mem _ h)
      · rcases List.mem_cons.1 h with rfl | h
        · exact .inl (by simp)
        · exact (ih h).imp_left (List.mem_cons_of_mem _)

theorem write_pairwise {m : Memory} (a : Nat) (v : Color) (h : m.Pairwise fun p q => p.1 < q.1) :
    (m.write a v).Pairwise fun p q => p.1 < q.1 := by
  induction m with
  | nil => by_cases hv : v = .white <;> simp [Memory.write, hv]
  | cons p m ih =>
    obtain ⟨b, u⟩ := p
    obtain ⟨h1, h2⟩ := List.pairwise_cons.1 h
    simp only [Memory.write]
    split
    · next hab =>
      split
      · exact h
      · refine List.pairwise_cons.2 ⟨fun q hq => ?_, h⟩
        rcases List.mem_cons.1 hq with rfl | hq
        · exact hab
        · exact Nat.lt_trans hab (h1 q hq)
    · next hab =>
      split
      · next hab' =>
        subst hab'
        split
        · exact h2
        · exact List.pairwise_cons.2 ⟨h1, h2⟩
      · next hab' =>
        refine List.pairwise_cons.2 ⟨fun q hq => ?_, ih h2⟩
        rcases mem_write hq with hq | ⟨rfl, -⟩
        · exact h1 q hq
        · show b < a
          omega

/-- A write keeps the canonical form. -/
theorem write_wf {n : Nat} {m : Memory} {a : Nat} (v : Color) (ha : a < n) (h : Memory.wf n m) :
    Memory.wf n (m.write a v) := by
  refine ⟨write_pairwise a v h.1, fun p hp => ?_⟩
  rcases mem_write hp with hp | ⟨rfl, hv⟩
  · exact h.2 p hp
  · exact ⟨ha, hv⟩

/-- The loop of CLEAR leaves the canonical form. -/
theorem fill_wf (n : Nat) (v : Color) : Memory.wf n (Memory.fill n v) := by
  by_cases hv : v = .white
  · simp [Memory.fill, hv, Memory.wf]
  · simp only [Memory.fill, if_neg hv]
    refine ⟨?_, fun p hp => ?_⟩
    · rw [List.pairwise_map]
      exact List.pairwise_lt_range
    · obtain ⟨a, ha, rfl⟩ := List.mem_map.1 hp
      exact ⟨List.mem_range.1 ha, hv⟩

/-- The reset contents are in canonical form. -/
theorem nil_wf (n : Nat) : Memory.wf n [] := by simp [Memory.wf]

theorem read_map_const {l : List Nat} {v : Color} (a : Nat) :
    Memory.read a (l.map fun b => (b, v)) = if a ∈ l then v else .white := by
  induction l with
  | nil => rfl
  | cons b l ih =>
    by_cases h : a = b
    · simp [Memory.read, h]
    · simp [Memory.read, h, ih]

/-- Every cell of a cleared store holds the color; no address past the store does. -/
theorem read_fill (n a : Nat) (v : Color) :
    (Memory.fill n v).read a = if a < n then v else .white := by
  by_cases hv : v = .white
  · simp [Memory.fill, hv]
  · simp [Memory.fill, hv, read_map_const]

/-- A listed cell reads as its entry. -/
theorem read_of_mem {m : Memory} {a : Nat} {v : Color} (h : m.Pairwise fun p q => p.1 < q.1)
    (hm : (a, v) ∈ m) : m.read a = v := by
  induction m with
  | nil => simp at hm
  | cons p m ih =>
    obtain ⟨b, u⟩ := p
    obtain ⟨h1, h2⟩ := List.pairwise_cons.1 h
    rcases List.mem_cons.1 hm with heq | hm
    · obtain ⟨rfl, rfl⟩ := Prod.mk.inj heq
      simp [Memory.read]
    · have : a ≠ b := by have := h1 _ hm; simp at this; omega
      simp [Memory.read, this, ih h2 hm]

/-- Two stores in canonical form with the same contents are the same list. -/
theorem ext {n n' : Nat} {m m' : Memory} (h : Memory.wf n m) (h' : Memory.wf n' m')
    (hr : ∀ a, m.read a = m'.read a) : m = m' := by
  induction m generalizing m' with
  | nil =>
    cases m' with
    | nil => rfl
    | cons p m' =>
      obtain ⟨b, u⟩ := p
      have := hr b
      simp only [Memory.read, if_true] at this
      exact absurd this.symm (h'.2 (b, u) (by simp)).2
  | cons p m ih =>
    obtain ⟨b, u⟩ := p
    obtain ⟨h1, h2⟩ := List.pairwise_cons.1 h.1
    cases m' with
    | nil =>
      have := hr b
      simp only [Memory.read, if_true] at this
      exact absurd this (h.2 (b, u) (by simp)).2
    | cons p' m' =>
      obtain ⟨b', u'⟩ := p'
      obtain ⟨h1', h2'⟩ := List.pairwise_cons.1 h'.1
      have hu : u ≠ .white := (h.2 (b, u) (by simp)).2
      have hu' : u' ≠ .white := (h'.2 (b', u') (by simp)).2
      have hb : b = b' := by
        rcases Nat.lt_trichotomy b b' with hlt | heq | hlt
        · have := hr b
          rw [read_of_lt (m := (b', u') :: m')] at this
          · simp [Memory.read] at this; exact absurd this hu
          · intro q hq
            rcases List.mem_cons.1 hq with rfl | hq
            · exact hlt
            · exact Nat.lt_trans hlt (h1' q hq)
        · exact heq
        · have := hr b'
          rw [read_of_lt (m := (b, u) :: m)] at this
          · simp [Memory.read] at this; exact absurd this.symm hu'
          · intro q hq
            rcases List.mem_cons.1 hq with rfl | hq
            · exact hlt
            · exact Nat.lt_trans hlt (h1 q hq)
      subst hb
      have huu : u = u' := by simpa [Memory.read] using hr b
      subst huu
      congr 1
      refine ih ⟨h2, fun q hq => h.2 q (by simp [hq])⟩ ⟨h2', fun q hq => h'.2 q (by simp [hq])⟩ fun a => ?_
      by_cases hab : a = b
      · subst hab
        rw [read_of_lt h1, read_of_lt h1']
      · simpa [Memory.read, hab] using hr a

end Sys2Proof.Machine.Memory
end

