-- ==== Sys2Proof/Laws/FrameBuffer.lean ====
section
/-! SUPPORT. The serializer read bit by bit (40_framebuffer.md R118) and plane by plane (20_memory.md R53), and what
the pixel operations leave of the store. -/

namespace Sys2Proof.Machine

/-- Setting lane `7 - j` of a byte. -/
theorem getLsbD_or_lane (b : Byte) {i j : Nat} (hi : i < 8) (hj : j < 8) :
    (b ||| ((1 : Byte) <<< (7 - j))).getLsbD i = (b.getLsbD i || decide (j = 7 - i)) := by
  simp only [BitVec.getLsbD_or, BitVec.getLsbD_shiftLeft]
  congr 1
  rw [Bool.eq_iff_iff]
  simp; omega

theorem foldl_lanes (P : Nat → Bool) {i : Nat} (hi : i < 8) (l : List Nat) (hl : ∀ j ∈ l, j < 8) (b : Byte) :
    (l.foldl (fun (b : Byte) j => if P j then b ||| ((1 : Byte) <<< (7 - j)) else b) b).getLsbD i
      = (b.getLsbD i || (decide (7 - i ∈ l) && P (7 - i))) := by
  induction l generalizing b with
  | nil => simp
  | cons j l ih =>
    rw [List.foldl_cons, ih fun k hk => hl k (by simp [hk])]
    by_cases hP : P j
    · rw [if_pos hP, getLsbD_or_lane b hi (hl j (by simp))]
      by_cases e : j = 7 - i
      · subst e; simp [hP]
      · have : ¬ 7 - i = j := fun h => e h.symm
        simp [e, this]
    · rw [if_neg hP]
      by_cases e : 7 - i = j
      · subst e; simp [hP]
      · simp [e]

/-- Each lane of a plane byte depends on exactly one cell, or on none (R118). -/
theorem getLsbD_planeByte (c : Config) (bit : Color → Bool) (m : Memory) (y q : Nat) {i : Nat} (hi : i < 8) :
    (planeByte c bit m y q).getLsbD i = channelBit c bit m y (8 * q + (7 - i)) := by
  rw [planeByte, foldl_lanes (fun j => channelBit c bit m y (8 * q + j)) hi _ (by simp)]
  simp; omega

/-- Rows of one length, one after another: the length, and where an entry stands. -/
theorem flatMap_rows {α : Type} (f : Nat → List α) (r : Nat) (hf : ∀ y, (f y).length = r) (h : Nat) :
    ((List.range h).flatMap f).length = r * h
      ∧ ∀ y q, y < h → q < r → ((List.range h).flatMap f)[y * r + q]? = (f y)[q]? := by
  induction h with
  | zero => simp
  | succ h ih =>
    rw [List.range_succ, List.flatMap_append]
    simp only [List.flatMap_cons, List.flatMap_nil, List.append_nil, List.length_append, hf, ih.1]
    refine ⟨by ring, fun y q hy hq => ?_⟩
    by_cases hyh : y < h
    · rw [List.getElem?_append_left (by rw [ih.1]; nlinarith)]
      exact ih.2 y q hyh hq
    · obtain rfl : y = h := by omega
      rw [List.getElem?_append_right (by rw [ih.1]; nlinarith), ih.1]
      congr 1; rw [Nat.mul_comm]; omega

@[simp] theorem length_plane (c : Config) (bit : Color → Bool) (m : Memory) :
    (plane c bit m).length = rowBytes c * c.height :=
  (flatMap_rows _ (rowBytes c) (by simp) c.height).1

theorem getElem?_plane (c : Config) (bit : Color → Bool) (m : Memory) {y q : Nat} (hy : y < c.height)
    (hq : q < rowBytes c) : (plane c bit m)[y * rowBytes c + q]? = some (planeByte c bit m y q) := by
  refine ((flatMap_rows _ (rowBytes c) (by simp) c.height).2 y q hy hq).trans ?_
  simp [List.getElem?_range hq]

/-- The store of a pixel operation is again in canonical form. -/
theorem setPixel_wf {s : State} {x y : Coord} (col : Color) (h : Memory.wf (cellCount s.cfg) s.fb)
    (hb : inBounds s.cfg x y = true) :
    Memory.wf (cellCount s.cfg) (s.fb.write (pixelAddr s.cfg x y) col) := by
  simp only [inBounds, Bool.and_eq_true, decide_eq_true_eq] at hb
  refine Memory.write_wf _ ?_ h
  simp only [pixelAddr, cellCount]
  nlinarith [hb.1, hb.2]

/-- The store after reset is in canonical form. -/
theorem reset_fb_wf (cells : Nat) : Memory.wf cells State.reset.fb := Memory.nil_wf cells

end Sys2Proof.Machine
end

