-- ==== Sys2Proof/Laws/PerInstr.lean ====
section
/-! SUPPORT. The one statement made constructor by constructor: the code an instruction is encoded as belongs to
its own row of 30_encoding.md, R82 for a host operation (mask, match and extra condition), R88 for a panel command
(the opcode byte of the configuration, and no row of R82). -/

namespace Sys2Proof.Laws.OwnRow

/-- The instruction's code belongs to the instruction's row. -/
def Statement (i : Instr) : Prop :=
  ∀ c : Config,
    match encode c i with
    | .request w => ∃ r, i.tableRow = some r ∧ r.selects w = true
    | .command b => i.tableRow = none ∧ ∃ p : PanelCmd, i = p.instr ∧ b = c.opcode p

/-- A row's mask and match on a word given by its fields. -/
theorem selects_iff (r : TableRow) (f : ReqFields) :
    r.selects f.toWord = true ↔ f.toWord &&& r.mask = r.pattern ∧ (r.noReservedColor = true → f.color ≠ 0b11) := by
  simp [TableRow.selects, imp_iff_not_or]

theorem code_ne_reserved (c : Color) : c.code ≠ 0b11 := by cases c <;> decide

theorem init : Statement .init := fun _ => ⟨_, rfl, by decide⟩
theorem update : Statement .update := fun _ => ⟨_, rfl, by decide⟩
theorem powerOff : Statement .powerOff := fun _ => ⟨_, rfl, by decide⟩

theorem setPixel (x y : Coord) (color : Color) : Statement (.setPixel x y color) := fun _ => by
  refine ⟨_, rfl, (selects_iff _ _).2 ⟨(and_eq_iff _ _ _).2 ?_, fun _ => code_ne_reserved color⟩⟩
  rw [ReqFields.ofWord_toWord]
  cases color <;> simp [ReqFields.ofWord, Color.code]

theorem clear (color : Color) : Statement (.clear color) := fun _ => by
  refine ⟨_, rfl, (selects_iff _ _).2 ⟨?_, fun _ => code_ne_reserved color⟩⟩
  cases color <;> decide

theorem getPixel (x y : Coord) : Statement (.getPixel x y) := fun _ => by
  refine ⟨_, rfl, (selects_iff _ _).2 ⟨(and_eq_iff _ _ _).2 ?_, by simp⟩⟩
  rw [ReqFields.ofWord_toWord]
  simp [ReqFields.ofWord]

theorem waitReady (t : Word) : Statement (.waitReady t) := fun _ => by
  refine ⟨_, rfl, ?_⟩
  rw [waitReady_word, selects_iff]
  refine ⟨(and_eq_iff _ _ _).2 ?_, by simp⟩
  rw [ReqFields.ofWord_toWord]
  simp [ReqFields.ofWord]

theorem setResolution : Statement .setResolution := fun _ => ⟨rfl, .setResolution, rfl, rfl⟩
theorem loadWaveformTable : Statement .loadWaveformTable := fun _ => ⟨rfl, .loadWaveformTable, rfl, rfl⟩
theorem beginDataTransferBlack : Statement .beginDataTransferBlack := fun _ => ⟨rfl, .dataBlack, rfl, rfl⟩
theorem beginDataTransferAccent : Statement .beginDataTransferAccent := fun _ => ⟨rfl, .dataAccent, rfl, rfl⟩
theorem refresh : Statement .refresh := fun _ => ⟨rfl, .refresh, rfl, rfl⟩
theorem powerDown : Statement .powerDown := fun _ => ⟨rfl, .powerDown, rfl, rfl⟩

end Sys2Proof.Laws.OwnRow
end

