-- ==== Sys2Proof/Laws/Protocol.lean ====
section
/-! SUPPORT. Everything the three protocol operations, the host's wait and the panel commands can do: each ends in
one of the listed states, built of `polled`, `sent` and `cut`. Proofs about all outcomes cite these. -/

namespace Sys2Proof.Machine

/-- The commands of the two sequences, from the configuration and the store. -/
theorem commandOf_eq (c : Config) (m : Memory) (p : PanelCmd) :
    commandOf c m p = ⟨c.opcode p, payloadOf c m (cmdSrcOf p)⟩ := rfl

theorem waitReady_cases (bound : Word) (s : State) :
    ∃ n es, (∀ e ∈ es, e.isQuiet = true)
      ∧ ((∃ e, waitReady bound s = (.ok e, s.polled n es)) ∨ waitReady bound s = (.timedOut, s.polled n es)) := by
  obtain ⟨n, es, h, hq⟩ := waitReady_ran bound s
  refine ⟨n, es, hq, ?_⟩
  rcases hw : waitReady bound s with ⟨e | _, t⟩ <;> rw [hw] at h <;> cases h
  · exact .inl ⟨e, rfl⟩
  · exact .inr rfl

theorem execWaitReady_cases (t : Word) (s : State) :
    ∃ n es st d, (∀ e ∈ es, e.isQuiet = true) ∧ execWaitReady t s = .next ((s.polled n es).respond st d) := by
  obtain ⟨n, es, hq, ⟨e, h⟩ | h⟩ := waitReady_cases t s
  · exact ⟨n, es, .ok, e, hq, by simp [execWaitReady, h]⟩
  · exact ⟨n, es, .timeout, 0, hq, by simp [execWaitReady, h]⟩

theorem sendCommand_cases (p : PanelCmd) (s : State) :
    sendCommand p s = (.ok, s.sent (commandOf s.cfg s.fb p))
      ∨ ∃ k < (commandOf s.cfg s.fb p).payload.length + 1,
          sendCommand p s = (.err, s.cut (commandOf s.cfg s.fb p) k) := by
  rcases transmit_cases (commandOf s.cfg s.fb p) s with ⟨-, h⟩ | ⟨k, hk, -, h⟩
  · exact .inl h
  · exact .inr ⟨k, hk, h⟩

/-- INIT past its state check (43_display_protocol.md R162): its five ends. -/
theorem initBody_cases (s : State) :
    ∃ n es, (∀ e ∈ es, e.isQuiet = true) ∧
      (let s1 := (resetPulse s).polled n es
       let c1 := commandOf s.cfg s.fb .setResolution
       let c2 := commandOf s.cfg s.fb .loadWaveformTable
       initBody s = s1.takeTimeout .resetTimeout
       ∨ (∃ k, initBody s = (s1.cut c1 k).takeBusFault)
       ∨ (∃ k, initBody s = ((s1.sent c1).cut c2 k).takeBusFault)
       ∨ ∃ n' es', (∀ e ∈ es', e.isQuiet = true) ∧
          (initBody s = (((s1.sent c1).sent c2).polled n' es').takeTimeout .configTimeout
           ∨ ∃ d, initBody s
              = { ((s1.sent c1).sent c2).polled n' es' with state := .ready }.respond .ok d)) := by
  obtain ⟨n, es, hq, ⟨e, h⟩ | h⟩ := waitReady_cases (durationWord s.cfg.initTimeoutUs) (resetPulse s)
  · refine ⟨n, es, hq, .inr ?_⟩
    rcases sendCommand_cases .setResolution ((resetPulse s).polled n es) with h1 | ⟨k, -, h1⟩
    · rcases sendCommand_cases .loadWaveformTable (((resetPulse s).polled n es).sent
        (commandOf s.cfg s.fb .setResolution)) with h2 | ⟨k, -, h2⟩
      · obtain ⟨n', es', hq', h3⟩ := waitReady_cases (durationWord s.cfg.initTimeoutUs)
          ((((resetPulse s).polled n es).sent (commandOf s.cfg s.fb .setResolution)).sent
            (commandOf s.cfg s.fb .loadWaveformTable))
        refine .inr (.inr ⟨n', es', hq', ?_⟩)
        rcases h3 with ⟨e', h3⟩ | h3
        · refine .inr ⟨e + e', ?_⟩
          simp only [initBody, h]; erw [h1]; dsimp only; erw [h2]; dsimp only; erw [h3]
        · refine .inl ?_
          simp only [initBody, h]; erw [h1]; dsimp only; erw [h2]; dsimp only; erw [h3]
      · refine .inr (.inl ⟨k, ?_⟩)
        simp only [initBody, h]; erw [h1]; dsimp only; erw [h2]; rfl
    · refine .inl ⟨k, ?_⟩
      simp only [initBody, h]; erw [h1]; rfl
  · exact ⟨n, es, hq, .inl (by simp only [initBody, h])⟩

/-- UPDATE past its state check (43_display_protocol.md R163): its five ends. -/
theorem updateBody_cases (s : State) :
    let c1 := commandOf s.cfg s.fb .dataBlack
    let c2 := commandOf s.cfg s.fb .dataAccent
    let c3 := commandOf s.cfg s.fb .refresh
    (∃ k, updateBody s = (s.cut c1 k).takeBusFault)
    ∨ (∃ k, updateBody s = ((s.sent c1).cut c2 k).takeBusFault)
    ∨ (∃ k, updateBody s = (((s.sent c1).sent c2).cut c3 k).takeBusFault)
    ∨ ∃ n es, (∀ e ∈ es, e.isQuiet = true) ∧
        (let s3 := State.polled { ((s.sent c1).sent c2).sent c3 with state := .refreshing } n es
         updateBody s = s3.takeTimeout .refreshTimeout
         ∨ ∃ d, updateBody s = { s3 with state := .ready }.respond .ok d) := by
  intro c1 c2 c3
  rcases sendCommand_cases .dataBlack s with h1 | ⟨k, -, h1⟩
  · rcases sendCommand_cases .dataAccent (s.sent c1) with h2 | ⟨k, -, h2⟩
    · rcases sendCommand_cases .refresh ((s.sent c1).sent c2) with h3 | ⟨k, -, h3⟩
      · obtain ⟨n, es, hq, h4⟩ := waitReady_cases (durationWord s.cfg.refreshTimeoutUs)
          { ((s.sent c1).sent c2).sent c3 with state := .refreshing }
        refine .inr (.inr (.inr ⟨n, es, hq, ?_⟩))
        rcases h4 with ⟨e, h4⟩ | h4
        · refine .inr ⟨e, ?_⟩
          simp only [updateBody, h1]; erw [h2]; dsimp only; erw [h3]; dsimp only; erw [h4]
        · refine .inl ?_
          simp only [updateBody, h1]; erw [h2]; dsimp only; erw [h3]; dsimp only; erw [h4]
      · refine .inr (.inr (.inl ⟨k, ?_⟩))
        simp only [updateBody, h1]; erw [h2]; dsimp only; erw [h3]; rfl
    · refine .inr (.inl ⟨k, ?_⟩)
      simp only [updateBody, h1]; erw [h2]; rfl
  · exact .inl ⟨k, by simp only [updateBody, h1]; rfl⟩

/-- POWER_OFF past its state check (43_display_protocol.md R164): its two ends. -/
theorem powerOffBody_cases (s : State) :
    (∃ k, powerOffBody s = (s.cut (commandOf s.cfg s.fb .powerDown) k).takeBusFault)
    ∨ powerOffBody s = { s.sent (commandOf s.cfg s.fb .powerDown) with state := .poweredDown }.respond .ok 0 := by
  rcases sendCommand_cases .powerDown s with h | ⟨k, -, h⟩
  · exact .inr (by simp only [powerOffBody, h])
  · exact .inl ⟨k, by simp only [powerOffBody, h]⟩

/-- A panel command (41_command_encoder.md R131, R133): its two ends. -/
theorem exec_command_cases (p : PanelCmd) (s : State) :
    exec p.instr s = .next { (s.sent (commandOf s.cfg s.fb p)).clearCommand with phase := phaseAfter p }
    ∨ ∃ k, exec p.instr s = .next (s.cut (commandOf s.cfg s.fb p) k).takeBusFault := by
  have hx : exec p.instr s = .next (runCommand p s) := by cases p <;> rfl
  rw [hx]
  rcases sendCommand_cases p s with h | ⟨k, -, h⟩
  · exact .inl (by simp only [runCommand, h])
  · exact .inr ⟨k, by simp only [runCommand, h]⟩

end Sys2Proof.Machine
end

