-- ==== Sys2Proof/Tests/Slice0.lean ====
section
/-! SUPPORT. Tests of one step or one operation each, with the expected results of spec/95_test_vectors.md (the
vector is named at each test), the smoke test of WellFormed, and a witness for every obligation with hypotheses. -/

namespace Sys2Proof.Tests

open Sys2Proof.Machine

/-! ## Helpers -/

/-- The reset block of CFG_EX in a protocol state, with the levels BUSY answers next (idle for ever after). -/
def block (st : PanelState) (busy : List Level) : State :=
  { State.reset with state := st, env := { State.reset.env with busy := busy } }

/-- The same with the store of example E6: cell 4 Black, cell 2 Accent. -/
def blockE6 (st : PanelState) (busy : List Level) : State :=
  { block st busy with fb := [(2, .accent), (4, .black)] }

/-- What is seen of an outcome: STATE, FAULT_REASON and the events. -/
def seen (o : Host.Outcome State Fault Refusal) : Option (PanelState × FaultReason × List Event) :=
  match o with
  | .next s => some (s.state, s.faultReason, s.trace)
  | .fault _ => none
  | .refused _ => none

/-- The last event of an outcome as a response word. -/
def answer (o : Host.Outcome State Fault Refusal) : Option RspWord :=
  match o with
  | .next s => match s.trace.getLast? with
    | some (.rsp st d) => some (rspWord st d)
    | _ => none
  | .fault _ => none
  | .refused _ => none

/-- The store of an outcome. -/
def store (o : Host.Outcome State Fault Refusal) : Option Memory :=
  match o with
  | .next s => some s.fb
  | .fault _ => none
  | .refused _ => none

/-- Why an outcome is a fault, and why it is a refusal. -/
def faultOf (o : Host.Outcome State Fault Refusal) : Option Fault :=
  match o with
  | .next _ => none
  | .fault r => some r
  | .refused _ => none

def refusalOf (o : Host.Outcome State Fault Refusal) : Option Refusal :=
  match o with
  | .next _ => none
  | .fault _ => none
  | .refused r => some r

/-- The answer to a request word presented to an idle block. -/
def answerTo (s : State) (w : ReqWord) : Option RspWord := answer (step { s with host := [.request w] })

/-- The configuration CFG_EX with other dimensions. -/
def cfgOf (w h : Nat) : Config := { Config.illustrative with width := w, height := h }

/-! ## Decoding, words written bit by bit from 30_encoding.md R81 and R82 (V1 to V10) -/

theorem test_decode_init : decodeRequest 0b0001_00_00_0000000000000000_0000000000000000 = .ok .init := by decide
theorem test_decode_update : decodeRequest 0b0010_00_00_0000000000000000_0000000000000000 = .ok .update := by decide
theorem test_decode_powerOff : decodeRequest 0b0011_00_00_0000000000000000_0000000000000000 = .ok .powerOff := by decide
theorem test_decode_setPixel :
    decodeRequest 0b0100_00_01_0000000000000001_0000000000000001 = .ok (.setPixel 1 1 .black) := by decide
theorem test_decode_setPixel_last :
    decodeRequest 0b0100_00_10_1111111111111111_1111111111111111 = .ok (.setPixel 65535 65535 .accent) := by decide
theorem test_decode_clear : decodeRequest 0b0101_00_10_0000000000000000_0000000000000000 = .ok (.clear .accent) := by decide
theorem test_decode_getPixel :
    decodeRequest 0b0110_00_00_0000000000000010_0000000000000011 = .ok (.getPixel 2 3) := by decide
theorem test_decode_waitReady :
    decodeRequest 0b0111_00_00_0000000000000000_0000100111000100 = .ok (.waitReady 2500) := by decide

/-- V11 to V23: every illegal word of the spec's table, with the case of R90 it falls under. -/
theorem test_decode_illegal :
    [0x0000000000, 0x8000000000, 0xF000000000, 0x1000000001, 0x2100000000, 0x4300000000, 0x4300030000,
      0x4400000000, 0x4800000000, 0x5100000001, 0x5300000000, 0x6100000000, 0x7100000000].map decodeRequest
    = [.error .reservedOp, .error .reservedOp, .error .reservedOp, .error .unusedField, .error .unusedField,
      .error .reservedColor, .error .reservedColor, .error .reservedField, .error .reservedField,
      .error .unusedField, .error .reservedColor, .error .unusedField, .error .unusedField] := by decide

/-- The opcode bytes of CFG_EX (95_test_vectors.md section 2). -/
theorem test_decode_commands :
    [0xA1, 0xA2, 0xB0, 0xB1, 0xC0, 0xD0].map (fun b => decode Config.illustrative (.command b))
    = [.ok .setResolution, .ok .loadWaveformTable, .ok .beginDataTransferBlack, .ok .beginDataTransferAccent,
      .ok .refresh, .ok .powerDown] := by decide

theorem test_decode_unknown_command : decode Config.illustrative (.command 0xA0) = .error .unknownOpcode := by decide

theorem test_encode_waitReady : encode Config.illustrative (.waitReady 2500) = .request 0x70000009C4 := by decide

theorem test_decodeTableWord :
    decodeTableWord 40 0x4100010001 = some (.setPixel 1 1 .black) ∧ decodeTableWord 8 0xC0 = some .refresh
      ∧ decodeTableWord 40 0x4300000000 = none ∧ decodeTableWord 16 0 = none := by decide

/-! ## Well-formedness: each check refuses an ill-formed configuration (00_scope.md R7) -/

theorem test_wf_illustrative : Config.illustrative.wf = true := by decide
theorem test_wf_width_zero : (cfgOf 0 3).wf = false := by decide
theorem test_wf_height_zero : (cfgOf 3 0).wf = false := by decide
theorem test_wf_width_large : (cfgOf 65536 3).wf = false := by decide
theorem test_wf_height_large : (cfgOf 3 65536).wf = false := by decide
theorem test_wf_pulse_large : ({ Config.illustrative with resetPulseUs := 2147483648 } : Config).wf = false := by decide
theorem test_wf_initTimeout_large :
    ({ Config.illustrative with initTimeoutUs := 2147483648 } : Config).wf = false := by decide
theorem test_wf_refreshTimeout_large :
    ({ Config.illustrative with refreshTimeoutUs := 2147483648 } : Config).wf = false := by decide
theorem test_wf_poll_large : ({ Config.illustrative with pollDelayUs := 2147483648 } : Config).wf = false := by decide
theorem test_wf_poll_zero : ({ Config.illustrative with pollDelayUs := 0 } : Config).wf = false := by decide
theorem test_wf_sck_zero : ({ Config.illustrative with sckMaxHz := 0 } : Config).wf = false := by decide
theorem test_opcodes_distinct :
    Config.illustrative.opcodesDistinct = true
      ∧ ({ Config.illustrative with opRefresh := 0xA1 } : Config).opcodesDistinct = false := by decide

/-! ## FrameBuffer (F1 to F10, S2, S3, S7, S8, S12) -/

theorem test_setPixel_corner : store (exec (.setPixel 2 2 .accent) State.reset) = some [(8, .accent)] := by decide
theorem test_setPixel_out_of_bounds : answerTo State.reset 0x4100030002 = some 0x100000000 := by decide
theorem test_setPixel_replaces :
    (store (exec (.setPixel 1 1 .white) (blockE6 .faulted []))) = some [(2, .accent)] := by decide
theorem test_getPixel : answerTo (blockE6 .poweredDown []) 0x6000020000 = some 0x000000002 := by decide
theorem test_getPixel_out_of_bounds : answerTo State.reset 0x6000030000 = some 0x100000000 := by decide
theorem test_clear : (store (exec (.clear .black) State.reset)).map (·.length) = some 9 := by decide
theorem test_clear_white : store (exec (.clear .white) (blockE6 .ready [])) = some [] := by decide

/-- S2. -/
theorem test_planes_E6 :
    blackPlane Config.illustrative [(2, .accent), (4, .black)] = [0x00, 0x40, 0x00]
      ∧ accentPlane Config.illustrative [(2, .accent), (4, .black)] = [0x20, 0x00, 0x00] := by decide
/-- S3: the padding bits stay 0. -/
theorem test_planes_padding : blackPlane (cfgOf 3 3) (Memory.fill 9 .black) = [0xE0, 0xE0, 0xE0] := by decide
/-- S7, S12. -/
theorem test_planes_two_bytes :
    accentPlane (cfgOf 9 1) (Memory.fill 9 .accent) = [0xFF, 0x80]
      ∧ accentPlane (cfgOf 17 2) [(16, .accent), (17, .accent), (33, .black)] = [0x00, 0x00, 0x80, 0x80, 0x00, 0x00]
      ∧ blackPlane (cfgOf 17 2) [(16, .accent), (17, .accent), (33, .black)] = [0x00, 0x00, 0x00, 0x00, 0x00, 0x80] := by
  decide
/-- S8, by the loop of 40_framebuffer.md R115. -/
theorem test_plane_loop : planeLoop (cfgOf 10 2) blackBit [(7, .black)] = [0x01, 0x00, 0x00, 0x00] := by decide

/-! ## CommandEncoder (T1 to T8) -/

theorem test_setResolution :
    seen (exec .setResolution State.reset) = some (.uninitialized, .none,
      [.line .dc false, .line .cs false, .bus 0xA1, .line .dc true, .bus 0x03, .bus 0x03, .line .cs true]) := by decide
theorem test_loadWaveformTable :
    seen (exec .loadWaveformTable State.reset) = some (.uninitialized, .none, [.line .dc false, .line .cs false,
      .bus 0xA2, .line .dc true, .bus 0x11, .bus 0x22, .bus 0x33, .line .cs true]) := by decide
theorem test_beginDataTransferBlack :
    seen (exec .beginDataTransferBlack (blockE6 .ready [])) = some (.ready, .none, [.line .dc false, .line .cs false,
      .bus 0xB0, .line .dc true, .bus 0x00, .bus 0x40, .bus 0x00, .line .cs true]) := by decide
theorem test_beginDataTransferAccent :
    seen (exec .beginDataTransferAccent (blockE6 .ready [])) = some (.ready, .none, [.line .dc false, .line .cs false,
      .bus 0xB1, .line .dc true, .bus 0x20, .bus 0x00, .bus 0x00, .line .cs true]) := by decide
theorem test_refresh :
    seen (exec .refresh (block .ready [])) = some (.ready, .none,
      [.line .dc false, .line .cs false, .bus 0xC0, .line .cs true]) := by decide
theorem test_powerDown :
    seen (exec .powerDown (block .ready [])) = some (.ready, .none,
      [.line .dc false, .line .cs false, .bus 0xD0, .line .dc true, .bus 0xA5, .line .cs true]) := by decide
/-- T7: the opcode write answers err. -/
theorem test_setResolution_err :
    seen (exec .setResolution { State.reset with env := { State.reset.env with bus := [.err] } })
      = some (.faulted, .busFault,
        [.line .dc false, .line .cs false, .bus 0xA1, .line .cs true, .rsp .busFault 0]) := by decide
/-- T8: the first payload write answers err. -/
theorem test_beginDataTransferBlack_err :
    seen (exec .beginDataTransferBlack { block .ready [] with env := { State.reset.env with bus := [.ok, .err] } })
      = some (.faulted, .busFault, [.line .dc false, .line .cs false, .bus 0xB0, .line .dc true, .bus 0x00,
        .line .cs true, .rsp .busFault 0]) := by decide
/-- T5 with the other line levels. -/
theorem test_refresh_levels :
    seen (exec .refresh
        { block .ready [] with cfg := { Config.illustrative with csAssertLevel := true, dcCommandLevel := true } })
      = some (.ready, .none, [.line .dc true, .line .cs true, .bus 0xC0, .line .cs false]) := by decide

/-! ## BusyGate (W1, W5, W8) -/

/-- W1 with CFG_EX's times: n = 2500 div 1000 = 2, three samples, two delays (W9). -/
theorem test_waitReady_timeout :
    seen (exec (.waitReady 2500) (block .uninitialized [true, true, true])) = some (.uninitialized, .none,
      [.sample true, .delay 1000, .sample true, .delay 1000, .sample true, .rsp .timeout 0]) := by decide
/-- W5's point: the sample at ELAPSED = t is taken and may succeed. -/
theorem test_waitReady_boundary :
    answerTo (block .faulted [true, true]) 0x70000007D0 = some 0x0000007D0 := by decide

/-! ## DisplayProtocol (P1, P2, P4, P5, section 7) -/

/-- P1 step 3. -/
theorem test_init :
    seen (exec .init (block .uninitialized [true, true, false, false])) = some (.ready, .none,
      [.line .rst false, .delay 10000, .line .rst true,
       .sample true, .delay 1000, .sample true, .delay 1000, .sample false,
       .line .dc false, .line .cs false, .bus 0xA1, .line .dc true, .bus 0x03, .bus 0x03, .line .cs true,
       .line .dc false, .line .cs false, .bus 0xA2, .line .dc true, .bus 0x11, .bus 0x22, .bus 0x33, .line .cs true,
       .sample false, .rsp .ok 2000]) := by decide
/-- P2 step 1: the panel is never ready. -/
theorem test_init_timeout :
    seen (exec .init (block .uninitialized [true, true, true, true, true, true])) = some (.faulted, .resetTimeout,
      [.line .rst false, .delay 10000, .line .rst true, .sample true, .delay 1000, .sample true, .delay 1000,
       .sample true, .delay 1000, .sample true, .delay 1000, .sample true, .delay 1000, .sample true,
       .rsp .timeout 1]) := by decide
/-- P1 step 4. -/
theorem test_update :
    seen (exec .update (blockE6 .ready [true, true, true, false])) = some (.ready, .none,
      [.line .dc false, .line .cs false, .bus 0xB0, .line .dc true, .bus 0x00, .bus 0x40, .bus 0x00, .line .cs true,
       .line .dc false, .line .cs false, .bus 0xB1, .line .dc true, .bus 0x20, .bus 0x00, .bus 0x00, .line .cs true,
       .line .dc false, .line .cs false, .bus 0xC0, .line .cs true,
       .sample true, .delay 1000, .sample true, .delay 1000, .sample true, .delay 1000, .sample false,
       .rsp .ok 3000]) := by decide
/-- P5a step 2: the first payload byte of the black plane fails; no wait follows. -/
theorem test_update_busFault :
    seen (exec .update { block .ready [] with env := { State.reset.env with bus := [.ok, .err] } })
      = some (.faulted, .busFault, [.line .dc false, .line .cs false, .bus 0xB0, .line .dc true, .bus 0x00,
        .line .cs true, .rsp .busFault 0]) := by decide
/-- P1 step 5. -/
theorem test_powerOff :
    seen (exec .powerOff (block .ready [])) = some (.poweredDown, .none, [.line .dc false, .line .cs false,
      .bus 0xD0, .line .dc true, .bus 0xA5, .line .cs true, .rsp .ok 0]) := by decide
/-- Section 7: the data of InvalidState, in Ready, PoweredDown and Faulted(RefreshTimeout). -/
theorem test_invalidState :
    answerTo (block .ready []) 0x1000000000 = some 0x200000010
      ∧ answerTo (block .poweredDown []) 0x3000000000 = some 0x200000031
      ∧ answerTo { block .faulted [] with faultReason := .refreshTimeout } 0x2000000000 = some 0x200000341 := by decide

/-! ## The step, the reset, the sequencer -/

/-- V18 in Faulted: IllegalRequest, one event. -/
theorem test_illegal_request :
    seen (step { block .faulted [] with host := [.request 0x4400000000] })
      = some (.faulted, .none, [.rsp .illegalRequest 0]) := by decide
theorem test_status_after_reset : State.reset.statusOut = 0b0000000 := by decide
/-- P2's end state, and P5a's: 0b0_001_100 and 0b0_100_100. -/
theorem test_status_faulted :
    ({ block .faulted [] with faultReason := .resetTimeout } : State).statusOut = 0b0001100
      ∧ ({ block .faulted [] with faultReason := .busFault } : State).statusOut = 0b0100100 := by decide
/-- Section 7, Faulted(BusFault). -/
theorem test_invalidState_busFault :
    answerTo { block .faulted [] with faultReason := .busFault } 0x1000000000 = some 0x200000440 := by decide
/-- 70_reset_and_hazards.md R212. -/
theorem test_reset_while_busy :
    refusalOf (step { block .ready [] with busyFlag := true, phase := .command .refresh, host := [.reset] })
      = some .resetDuringOperation := by decide
/-- P6: the block reset on an idle block. -/
theorem test_block_reset :
    (match step { blockE6 .faulted [] with faultReason := .resetTimeout, host := [.reset] } with
      | .next s => decide (s.state = .uninitialized ∧ s.faultReason = .none ∧ s.fb = [] ∧ s.trace = [])
      | .fault _ => false
      | .refused _ => false) = true := by decide
theorem test_construct_zero :
    refusalOf (State.construct (cfgOf 0 3) false State.reset.env []) = some .invalidDimensions := by decide
theorem test_withFetchWord :
    answer (step (State.reset.withFetchWord 40 0x2000000000)) = some 0x200000001 := by decide
/-- P1 step 4: the status output inside the refresh wait. -/
theorem test_refreshing_status :
    (match microStep { block .ready [] with busyFlag := true, phase := .waitStart .refreshReady } with
      | .next s => s.statusOut
      | .fault _ => 0
      | .refused _ => 0) = 0b1000010 := by decide
/-- 10_state.md R22: a scratch register that holds no value is not read as zero. -/
theorem test_scratch_fault :
    faultOf (microStep { block .ready [] with busyFlag := true, phase := .waitDelay .host })
      = some (.scratchUnwritten .elapsed) := by decide

/-! ## Witnesses: for every obligation with hypotheses, a state and operands that meet them -/

/-- An idle block of CFG_EX in Ready with one request at the port. -/
def atPort (w : ReqWord) : State := { block .ready [] with host := [.request w] }

/-- The sequencer inside UPDATE, polling. -/
def polling : State :=
  { block .refreshing [true] with busyFlag := true, phase := .waitSample .refreshReady, req := some 0x2000000000,
                                  elapsed := some 0, timeout := some 20000 }

/-- The sequencer inside UPDATE, before the second byte of the black plane. -/
def sending : State :=
  { block .ready [] with busyFlag := true, phase := .txByte, req := some 0x2000000000, cs := false, dc := true,
                         cmdOp := some 0xB0, cmdSrc := some .blackPlane, cmdIdx := some 1 }

/-- The sequencer inside UPDATE, at its second command. -/
def atCommand : State :=
  { block .ready [] with busyFlag := true, phase := .command .dataAccent, req := some 0x2000000000 }

/-- A transport whose n-th byte write from now fails. -/
def failing (n : Nat) : Env := { State.reset.env with bus := List.replicate n .ok ++ [.err] }

theorem witness_inv_idle : (atPort 0x2000000000).Inv :=
  ⟨by decide, by decide, by decide, by decide, by decide, by decide,
    by decide, rfl, rfl, rfl, rfl, rfl, rfl, rfl⟩

theorem witness_inv_polling : polling.Inv :=
  ⟨by decide, by decide, by decide, by decide, by decide, by decide, rfl, by decide, by decide⟩

theorem witness_inv_sending : sending.Inv :=
  ⟨by decide, by decide, by decide, by decide, by decide, by decide,
    .dataBlack, rfl, by decide, by decide, rfl, trivial⟩

theorem witness_inv_command : atCommand.Inv :=
  ⟨by decide, by decide, by decide, by decide, by decide, by decide, rfl, trivial⟩

/-- RequestDecodeOfEncode and RequestEncodeOfDecode, at the largest operands. -/
theorem witness_request_round_trip :
    encode Config.illustrative (.setPixel 65535 65535 .accent) = .request 0x42FFFFFFFF
      ∧ decodeRequest 0x42FFFFFFFF = .ok (.setPixel 65535 65535 .accent) := by decide

/-- CommandDecodeOfEncode. -/
theorem witness_command_round_trip : Config.illustrative.opcodesDistinct = true := by decide

/-- DecoderAgreesWithMaskMatchTable: both of its cases, next to each other. -/
theorem witness_table : decodeRequest 0x42FFFFFFFF = .ok (.setPixel 65535 65535 .accent)
    ∧ decodeRequest 0x43FFFFFFFF = .error .reservedColor := by decide

/-- SetPixelWritesOneCell, GetPixelReadsTheCell, PixelAddressesAreDistinctCells: the last pixel, and the first
column and the first row outside. -/
theorem witness_bounds :
    Memory.wf (cellCount (blockE6 .ready []).cfg) (blockE6 .ready []).fb
      ∧ ((2 : Coord).toNat < (blockE6 .ready []).cfg.width ∧ (2 : Coord).toNat < (blockE6 .ready []).cfg.height)
      ∧ (blockE6 .ready []).cfg.width ≤ (3 : Coord).toNat ∧ (blockE6 .ready []).cfg.height ≤ (3 : Coord).toNat
      ∧ (cfgOf 65535 65535).wf = true ∧ inBounds (cfgOf 65535 65535) 65534 65534 = true
      ∧ inBounds (cfgOf 65535 65535) 0 0 = true := by decide

/-- ClearSetsEveryCell (its law) and ClearIsItsLoopOfWrites. -/
theorem witness_clear :
    (∃ t, exec (.clear .black) (blockE6 .ready []) = .next t)
      ∧ (2 : Coord).toNat < (blockE6 .ready []).cfg.width ∧ (2 : Coord).toNat < (blockE6 .ready []).cfg.height
      ∧ Memory.wf (cellCount (blockE6 .ready []).cfg) (blockE6 .ready []).fb :=
  ⟨⟨_, rfl⟩, by decide, by decide, by decide⟩

/-- PlaneBitPositions at the last padding position of the last row, PlanesAreTheirLoops at the smallest width,
PlanesNeverBothSet at the last byte. -/
theorem witness_planes :
    (1 < (cfgOf 10 2).height ∧ 15 < 8 * (((cfgOf 10 2).width + 7) / 8)) ∧ 1 ≤ (cfgOf 1 1).width
      ∧ (blackPlane (cfgOf 10 2) [(19, .black)])[3]? = some 0x40
      ∧ (accentPlane (cfgOf 10 2) [(19, .black)])[3]? = some 0x00 := by decide

/-- FramebufferOpsIgnoreTheProtocol: its three forms. -/
theorem witness_framebuffer_ops :
    (∃ x y col, Instr.setPixel 0 0 .black = .setPixel x y col) ∧ (∃ x y, Instr.getPixel 0 0 = .getPixel x y)
      ∧ (∃ col, Instr.clear .white = .clear col) :=
  ⟨⟨0, 0, .black, rfl⟩, ⟨0, 0, rfl⟩, ⟨.white, rfl⟩⟩

/-- PanelCommandsComplete: every command's payload length in CFG_EX, and a transport that fails only after it. -/
theorem witness_commands :
    (failing 4).busOk (3 + 1) ∧ Config.illustrative.payloadSetResolution.length = 2
      ∧ Config.illustrative.waveformTable.length = 3
      ∧ (Config.illustrative.width + 7) / 8 * Config.illustrative.height = 3
      ∧ Config.illustrative.payloadRefresh.length = 0 ∧ Config.illustrative.payloadPowerDown.length = 1 :=
  ⟨by unfold Env.busOk; decide, by decide, by decide, by decide, by decide, by decide⟩

/-- BusErrorEndsACommand: at the opcode and at the last payload byte of the black plane. -/
theorem witness_bus_error :
    (failing 0).failsAt 0 ∧ (failing 3).failsAt 3
      ∧ 3 < (commandOf Config.illustrative [] .dataBlack).payload.length + 1 :=
  ⟨by unfold Env.failsAt Env.busOk; decide, by unfold Env.failsAt Env.busOk; decide, by decide⟩

/-- EveryRequestKeepsTheFraming, OneResponsePerRequest, BetweenOperations: a request in a block in its invariant,
with the next state that step gives. -/
theorem witness_request :
    (atPort 0x2000000000).Inv ∧ (atPort 0x2000000000).phase = .idle
      ∧ (atPort 0x2000000000).host = .request 0x2000000000 :: []
      ∧ (seen (step (atPort 0x2000000000))).isSome = true :=
  ⟨witness_inv_idle, rfl, rfl, by decide⟩

/-- CommandOrderOfTheOperations and UpdateByteCount: each operation reaches its success state. -/
theorem witness_successes :
    ((seen (exec .init (block .uninitialized []))).map (·.1) = some .ready)
      ∧ ((seen (exec .update (block .ready []))).map (·.1) = some .ready)
      ∧ ((seen (exec .powerOff (block .ready []))).map (·.1) = some .poweredDown) := by decide

/-- WaitReadyFollowsTheGate and ElapsedWithinTheBound: idle exactly at the bound, and busy throughout. -/
theorem witness_gate :
    (block .ready [true, true, false]).env.idleAt Config.illustrative 2
      ∧ 2 ≤ (2999 : Word).toNat / Config.illustrative.pollDelayUs
      ∧ (block .ready [true, true, true]).env.busyFor Config.illustrative (2 + 1)
      ∧ Config.illustrative.wf = true
      ∧ ∃ e u, waitReady 2999 (block .ready [true, true, false]) = (.ok e, u) :=
  ⟨by unfold Env.idleAt; decide, by decide, by unfold Env.busyFor; decide, by decide, _, _, rfl⟩

/-- InitReachesReady, InitTimeouts, the INIT clause of BusFaultIsPrecise: the first wait idle at its last sample,
then idle at once, or busy throughout. -/
theorem witness_init :
    (block .uninitialized [true, true, true, true, true, false, false]).env.idleAt Config.illustrative 5
      ∧ 5 ≤ pollCount Config.illustrative Config.illustrative.initTimeoutUs
      ∧ ((block .uninitialized [true, true, true, true, true, false, false]).env.dropBusy 6).idleAt Config.illustrative 0
      ∧ State.reset.env.busOk (wireLength (initCommands Config.illustrative))
      ∧ (block .uninitialized [true, true, true, true, true, true]).env.busyFor Config.illustrative 6
      ∧ ((block .uninitialized [false, true, true, true, true, true, true]).env.dropBusy 1).busyFor Config.illustrative 6
      ∧ (failing 6).failsAt 6 ∧ 6 < wireLength (initCommands Config.illustrative)
      ∧ (block .uninitialized []).state = .uninitialized :=
  ⟨by unfold Env.idleAt; decide, by decide, by unfold Env.idleAt; decide, fun _ _ => rfl,
    by unfold Env.busyFor; decide, by unfold Env.busyFor; decide, by unfold Env.failsAt Env.busOk; decide, by decide, rfl⟩

/-- UpdateRefreshesThePanel, UpdateTimesOut, PowerOffPowersDown, the Ready clauses of BusFaultIsPrecise,
RefreshingShowsOnTheStatusOutput. -/
theorem witness_ready :
    (block .ready []).env.idleAt Config.illustrative 0
      ∧ 0 ≤ pollCount Config.illustrative Config.illustrative.refreshTimeoutUs
      ∧ (block .ready []).env.busOk (wireLength (updateCommands Config.illustrative []))
      ∧ (block .ready (List.replicate 21 true)).env.busyFor Config.illustrative
          (pollCount Config.illustrative Config.illustrative.refreshTimeoutUs + 1)
      ∧ (block .ready []).env.busOk (wireLength (powerOffCommands Config.illustrative))
      ∧ (failing 8).failsAt 8 ∧ 8 < wireLength (updateCommands Config.illustrative [])
      ∧ (failing 1).failsAt 1 ∧ 1 < wireLength (powerOffCommands Config.illustrative) :=
  ⟨by unfold Env.idleAt; decide, by decide, fun _ _ => rfl, by unfold Env.busyFor; decide, fun _ _ => rfl,
    by unfold Env.failsAt Env.busOk; decide, by decide, by unfold Env.failsAt Env.busOk; decide, by decide⟩

/-- StateCheckComesFirst and TerminalStatesAreLeftByResetOnly: its premises in Faulted and in PoweredDown. -/
theorem witness_terminal :
    (block .faulted []).state ≠ .uninitialized ∧ (block .faulted []).state ≠ .ready
      ∧ ({ atPort 0x2000000000 with state := .poweredDown } : State).Inv
      ∧ ({ atPort 0x2000000000 with state := .faulted, faultReason := .busFault } : State).Inv :=
  ⟨by decide, by decide,
    ⟨by decide, by decide, by decide, by decide, by decide, by decide, by decide, rfl, rfl, rfl, rfl, rfl, rfl, rfl⟩,
    ⟨by decide, by decide, by decide, by decide, by decide, by decide, by decide, rfl, rfl, rfl, rfl, rfl, rfl, rfl⟩⟩

/-- StateMovesAlongTheTable, EveryStepKeepsTheInvariant, ConfigurationIsConstantAndTraceGrows: steps inside an
operation, polling, sending and at a command. -/
theorem witness_steps :
    (seen (step polling)).isSome = true ∧ (seen (step sending)).isSome = true ∧ (seen (step atCommand)).isSome = true := by
  decide

/-- ResetPulseOnlyInInit: exec answers a next state for an admitted INIT and for another operation. -/
theorem witness_pulse :
    (seen (exec .init State.reset)).isSome = true ∧ (seen (exec .update State.reset)).isSome = true := by decide

/-- StepRunsTheDecodedRequest and IllegalRequestChangesNothing. -/
theorem witness_accept :
    (atPort 0x2000000000).phase = .idle ∧ (atPort 0x2000000000).busyFlag = false
      ∧ (atPort 0x2000000000).host = .request 0x2000000000 :: [] ∧ decodeRequest 0x2000000000 = .ok .update
      ∧ decodeRequest 0x2000000001 = .error .unusedField := by decide

/-- StepRunsTheCommandAtHand and SequencerRefinesTheCommands. -/
theorem witness_at_command : atCommand.phase = .command .dataAccent ∧ atCommand.host.head? ≠ some .reset := by decide

/-- BusyBlockAcceptsNothing and StepNeverFaults: a busy block in its invariant with a request pending, and one with
the reset asserted. -/
theorem witness_busy :
    ({ polling with host := [.request 0x2000000000] } : State).Inv
      ∧ ({ polling with host := [.reset] } : State).Inv ∧ polling.busyFlag = true
      ∧ (seen (step { polling with host := [.request 0x2000000000] })).isSome = true :=
  ⟨⟨by decide, by decide, by decide, by decide, by decide, by decide, rfl, by decide, by decide⟩,
    ⟨by decide, by decide, by decide, by decide, by decide, by decide, rfl, by decide, by decide⟩, rfl, by decide⟩

/-- BlockResetRestoresTheResetState. -/
theorem witness_block_reset :
    ({ block .faulted [] with host := [.reset] } : State).busyFlag = false
      ∧ ({ block .faulted [] with host := [.reset] } : State).host = .reset :: [] := by decide

/-- ConstructionRefusesBadConfigurations: its four premises. -/
theorem witness_construction :
    ((cfgOf 0 3).width = 0 ∨ (cfgOf 0 3).height = 0) ∧ ((cfgOf 3 0).width = 0 ∨ (cfgOf 3 0).height = 0)
      ∧ ({ Config.illustrative with pollDelayUs := 0 } : Config).pollDelayUs = 0
      ∧ (cfgOf 65535 65535).wf = true ∧ (cfgOf 65536 1).wf = false := by decide

/-- ResetSatisfiesTheInvariant: well-formed configurations exist at both ends of the range. -/
theorem witness_reset_configurations : (cfgOf 1 1).wf = true ∧ (cfgOf 65535 65535).wf = true := by decide

/-- StoreIsWrittenBySetPixelAndClearOnly: a step that changes the store. -/
theorem witness_store_changes :
    store (step (atPort 0x4100000000)) = some [(0, .black)] ∧ (atPort 0x4100000000).fb ≠ [(0, .black)] := by decide

/-- LinesFollowTheTrace: a step that writes all three lines. -/
theorem witness_lines :
    ({ atPort 0x1000000000 with state := .uninitialized } : State).host.head? ≠ some .reset
      ∧ (seen (step { atPort 0x1000000000 with state := .uninitialized })).isSome = true := by decide

/-- SequencerRefinesTheOperations. -/
theorem witness_sequencer :
    (atPort 0x2000000000).Inv ∧ (atPort 0x2000000000).phase = .idle ∧ decodeRequest 0x2000000000 = .ok .update :=
  ⟨witness_inv_idle, rfl, by decide⟩

end Sys2Proof.Tests
end

section
/-! PROOFS of the family 20_memory.md: the layout of a bit-plane. -/

namespace Sys2Proof.Machine

/-- 20_memory.md R54 within a row: the column fixes the byte and the bit of that byte. -/
theorem getLsbD_planeByte_column (c : Config) (bit : Color → Bool) (m : Memory) (y x : Nat) :
    (planeByte c bit m y (x / 8)).getLsbD (7 - x % 8) = channelBit c bit m y x := by
  have column_eq : 8 * (x / 8) + (7 - (7 - x % 8)) = x := by omega
  rw [getLsbD_planeByte c bit m y _ (by omega), column_eq]

/-- Settles O13: the byte is the one `getElem?_plane` names, and its bit is the column's channel bit. -/
theorem planeBitPositions : Obligations.PlaneBitPositions := by
  intro c bit m
  refine ⟨length_plane c bit m, fun x y hy hx => ?_⟩
  have hq : x / 8 < rowBytes c := Nat.div_lt_of_lt_mul hx
  exact ⟨planeByte c bit m y (x / 8), getElem?_plane c bit m hy hq, getLsbD_planeByte_column c bit m y x⟩

end Sys2Proof.Machine
end

section
/-! PROOFS of the family 40_framebuffer.md: what SET_PIXEL, GET_PIXEL and CLEAR answer and what they leave. -/

namespace Sys2Proof.Machine

/-! ### The bounds check, the pixel address, the cleared store -/

theorem inBounds_iff {c : Config} {x y : Coord} :
    inBounds c x y = true ↔ x.toNat < c.width ∧ y.toNat < c.height := by
  simp only [inBounds, Bool.and_eq_true, decide_eq_true_eq]

theorem not_inBounds_iff {c : Config} {x y : Coord} :
    ¬ inBounds c x y = true ↔ c.width ≤ x.toNat ∨ c.height ≤ y.toNat := by
  rw [inBounds_iff]
  omega

/-- 20_memory.md R51: `y·W + x ≤ (H - 1)·W + (W - 1) < W·H`. -/
theorem pixelAddr_lt_cellCount {c : Config} {x y : Coord} (hb : inBounds c x y = true) :
    pixelAddr c x y < cellCount c := by
  obtain ⟨hx, hy⟩ := inBounds_iff.1 hb
  calc y.toNat * c.width + x.toNat
      < y.toNat * c.width + c.width := Nat.add_lt_add_left hx _
    _ = c.width * (y.toNat + 1) := by ring
    _ ≤ c.width * c.height := Nat.mul_le_mul_left _ hy

theorem read_fill_of_lt {n a : Nat} (v : Color) (ha : a < n) : (Memory.fill n v).read a = v := by
  rw [Memory.read_fill, if_pos ha]

/-! ### One equation per operation and outcome -/

theorem exec_setPixel_inBounds {s : State} {x y : Coord} (col : Color) (hb : inBounds s.cfg x y = true) :
    exec (.setPixel x y col) s
      = .next ({ s with fb := s.fb.write (pixelAddr s.cfg x y) col }.finished [Event.rsp .ok 0]) := by
  simp only [exec, execSetPixel, if_pos hb, respond_eq_finished]

theorem exec_setPixel_outOfBounds {s : State} {x y : Coord} (col : Color) (hb : ¬ inBounds s.cfg x y = true) :
    exec (.setPixel x y col) s = .next (s.finished [Event.rsp .outOfBounds 0]) := by
  simp only [exec, execSetPixel, if_neg hb, respond_eq_finished]

theorem exec_getPixel_inBounds {s : State} {x y : Coord} (hb : inBounds s.cfg x y = true) :
    exec (.getPixel x y) s
      = .next (s.finished [Event.rsp .ok (pixelData (s.fb.read (pixelAddr s.cfg x y)))]) := by
  simp only [exec, execGetPixel, if_pos hb, respond_eq_finished]

theorem exec_getPixel_outOfBounds {s : State} {x y : Coord} (hb : ¬ inBounds s.cfg x y = true) :
    exec (.getPixel x y) s = .next (s.finished [Event.rsp .outOfBounds 0]) := by
  simp only [exec, execGetPixel, if_neg hb, respond_eq_finished]

theorem exec_clear (s : State) (col : Color) :
    exec (.clear col) s = .next ({ s with fb := Memory.fill (cellCount s.cfg) col }.finished [Event.rsp .ok 0]) :=
  rfl

/-! ### The obligations -/

/-- Settles O8: in bounds the store is written at the pixel's address, and `Memory.read_write` reads every cell of it. -/
theorem setPixelWritesOneCell : Obligations.SetPixelWritesOneCell := by
  intro s x y col ⟨hsorted, hcells⟩
  refine ⟨fun hin => ?_, fun hout => exec_setPixel_outOfBounds col (not_inBounds_iff.2 hout)⟩
  have hb : inBounds s.cfg x y = true := inBounds_iff.2 hin
  have hwf : Memory.wf (cellCount s.cfg) (s.fb.write (pixelAddr s.cfg x y) col) :=
    setPixel_wf col ⟨hsorted, hcells⟩ hb
  exact ⟨_, exec_setPixel_inBounds col hb, hwf, fun a => Memory.read_write _ a col hsorted⟩

/-- Settles O10: the store is `Memory.fill`, which holds the color at every address below `W·H`; a pixel in bounds
has its address there. -/
theorem clearSetsEveryCell : Obligations.ClearSetsEveryCell := by
  intro s col
  refine ⟨_, exec_clear s col, Memory.fill_wf _ col, fun a ha => read_fill_of_lt col ha, ?_⟩
  intro t x y hcfg hfb hx hy
  have hb : inBounds t.cfg x y = true := hcfg ▸ inBounds_iff.2 ⟨hx, hy⟩
  have hread : t.fb.read (pixelAddr t.cfg x y) = col := by
    rw [hfb, ← hcfg]
    exact read_fill_of_lt col (pixelAddr_lt_cellCount hb)
  rw [exec_getPixel_inBounds hb, hread]
  cases col <;> rfl

/-- Settles O9: the data of the response is the code of the cell's color, one case for each color. -/
theorem getPixelReadsTheCell : Obligations.GetPixelReadsTheCell := by
  intro s x y
  refine ⟨fun hin => ?_, fun hout => exec_getPixel_outOfBounds (not_inBounds_iff.2 hout)⟩
  rw [exec_getPixel_inBounds (inBounds_iff.2 hin), pixelAddr]
  cases s.fb.read (y.toNat * s.cfg.width + x.toNat) <;> rfl

end Sys2Proof.Machine
end

section
/-! PROOFS of the family 41_command_encoder.md: a failing byte write ends an operation precisely (R133). The three
operations are chains of commands, so the fault is located by one lemma for each link of a chain (`BusFaults.cons`). -/

namespace Sys2Proof.Machine

/-! ### An operation as a chain of commands -/

/-- One link of an operation: transmit the command of `p`, then go on with `rest`, or end in `bus_fault`
(41_command_encoder.md R133). The bodies of the operations are made of it: `initBody_of_ready`,
`updateBody_eq_chain`, `powerOffBody_eq_chain`. -/
def commandThen (p : PanelCmd) (rest : State → State) (s : State) : State :=
  match sendCommand p s with
  | (.err, s1) => s1.takeBusFault
  | (.ok, s1) => rest s1

theorem commandThen_ok {p : PanelCmd} {s : State} (rest : State → State)
    (h : s.env.busOk ((commandOf s.cfg s.fb p).payload.length + 1)) :
    commandThen p rest s = rest (s.sent (commandOf s.cfg s.fb p)) := by
  simp only [commandThen, sendCommand, transmit_ok h]

theorem commandThen_err {p : PanelCmd} {s : State} {n : Nat} (rest : State → State) (h : s.env.failsAt n)
    (hn : n < (commandOf s.cfg s.fb p).payload.length + 1) :
    commandThen p rest s = (s.cut (commandOf s.cfg s.fb p) n).takeBusFault := by
  simp only [commandThen, sendCommand, transmit_err h hn]

/-- INIT past its first wait and both its commands (43_display_protocol.md R162). -/
def initEnd (e1 : Word) (s : State) : State :=
  match waitReady (durationWord s.cfg.initTimeoutUs) s with
  | (.timedOut, s1) => s1.takeTimeout .configTimeout
  | (.ok e2, s1) => { s1 with state := .ready }.respond .ok (e1 + e2)

/-- UPDATE past its three commands (43_display_protocol.md R163). -/
def updateEnd (s : State) : State :=
  match waitReady (durationWord s.cfg.refreshTimeoutUs) { s with state := .refreshing } with
  | (.timedOut, s1) => s1.takeTimeout .refreshTimeout
  | (.ok e, s1) => { s1 with state := .ready }.respond .ok e

theorem initBody_of_ready {s t : State} {e : Word}
    (h : waitReady (durationWord s.cfg.initTimeoutUs) (resetPulse s) = (.ok e, t)) :
    initBody s = commandThen .setResolution (commandThen .loadWaveformTable (initEnd e)) t := by
  simp only [initBody, h]
  rfl

theorem updateBody_eq_chain (s : State) :
    updateBody s = commandThen .dataBlack (commandThen .dataAccent (commandThen .refresh updateEnd)) s := rfl

theorem powerOffBody_eq_chain (s : State) :
    powerOffBody s = commandThen .powerDown (fun t => { t with state := .poweredDown }.respond .ok 0) s := rfl

/-! ### Where the failing write lies -/

theorem Env.failsAt_dropBus {e : Env} {k m : Nat} (h : e.failsAt (k + m)) : (e.dropBus k).failsAt m := by
  obtain ⟨hok, herr⟩ := h
  refine ⟨fun i hi => ?_, ?_⟩
  · rw [Env.busAt_dropBus]
    exact hok _ (Nat.add_lt_add_left hi k)
  · rw [Env.busAt_dropBus]
    exact herr

theorem faultEvents_cons_of_lt {c : Config} {cmd : Command} {n : Nat} (rest : List Command)
    (hn : n < cmd.payload.length + 1) :
    faultEvents c (cmd :: rest) n = sentEvents c cmd (n + 1) ++ [Event.line .cs (csIdle c)] := by
  rw [faultEvents, if_pos hn]

theorem faultEvents_cons_add (c : Config) (cmd : Command) (rest : List Command) (m : Nat) :
    faultEvents c (cmd :: rest) (cmd.payload.length + 1 + m) = transmitEvents c cmd ++ faultEvents c rest m := by
  rw [faultEvents, if_neg (Nat.not_lt.2 (Nat.le_add_right _ m)), Nat.add_sub_cancel_left]

/-! ### The state a bus fault leaves -/

/-- `s` after an operation that emitted `es` and ended at its n-th byte write (60_exceptions.md R189):
Faulted(BusFault), CS deasserted, DC as the events left it, everything else as in `s`. -/
def State.busFaulted (s : State) (es : List Event) (n : Nat) : State :=
  { s with
    state := .faulted
    faultReason := .busFault
    cs := csIdle s.cfg
    dc := lineAfter .dc s.dc es
    env := s.env.dropBus (n + 1) }.finished (es ++ [Event.rsp .busFault 0])

theorem takeBusFault_cut_eq_busFaulted (s : State) (cmd : Command) (n : Nat) :
    (s.cut cmd n).takeBusFault = s.busFaulted (sentEvents s.cfg cmd (n + 1) ++ [Event.line .cs (csIdle s.cfg)]) n := by
  rw [takeBusFault_cut, State.busFaulted, lineAfter_append, lineAfter_sentEvents, List.append_assoc]
  rfl

theorem sent_busFaulted (s : State) (cmd : Command) (es : List Event) (m : Nat) :
    (s.sent cmd).busFaulted es m = s.busFaulted (transmitEvents s.cfg cmd ++ es) (cmd.payload.length + 1 + m) := by
  simp [State.busFaulted, State.finished, State.sent, lineAfter_append, lineAfter_transmitEvents, Nat.add_assoc]

theorem resetPulse_eq (s : State) :
    resetPulse s = { s with rst := rstIdle s.cfg, trace := s.trace ++ pulseEvents s.cfg } := by
  simp [resetPulse, State.setLine, State.delayUs, State.emit, pulseEvents]

/-- The reset pulse and a ready wait write no DC, so a fault after them leaves their events in front, RESET
deasserted and their samples used. -/
theorem pulsed_polled_busFaulted (s : State) (j : Nat) (es : List Event) (n : Nat) :
    ((resetPulse s).polled (j + 1) (readyEvents s.cfg j)).busFaulted es n
      = { s with rst := rstIdle s.cfg, env := s.env.dropBusy (j + 1) }.busFaulted
          (pulseEvents s.cfg ++ readyEvents s.cfg j ++ es) n := by
  have hready (v : Level) : lineAfter .dc v (readyEvents s.cfg j) = v := lineAfter_quiet _ (readyEvents_quiet _ _) v
  rw [resetPulse_eq]
  simp [State.busFaulted, State.finished, State.polled, lineAfter_append, hready, pulseEvents, lineAfter]

/-! ### The fault of a chain -/

/-- An operation that sends `cmds` from `s` on ends in `t` when one of their byte writes fails: precisely at that
write. -/
def BusFaults (s t : State) (cmds : List Command) : Prop :=
  ∀ n, s.env.failsAt n → n < wireLength cmds → t = s.busFaulted (faultEvents s.cfg cmds n) n

theorem BusFaults.nil (s t : State) : BusFaults s t [] := fun n _ hn => absurd hn (Nat.not_lt_zero n)

/-- The failing write is in the first command, or it is one of the commands that follow, counted from the end of
the first. -/
theorem BusFaults.cons {p : PanelCmd} {rest : State → State} {s : State} {cmds : List Command}
    (h : BusFaults (s.sent (commandOf s.cfg s.fb p)) (rest (s.sent (commandOf s.cfg s.fb p))) cmds) :
    BusFaults s (commandThen p rest s) (commandOf s.cfg s.fb p :: cmds) := by
  intro n hfail hn
  rcases Nat.lt_or_ge n ((commandOf s.cfg s.fb p).payload.length + 1) with hlt | hge
  case inl =>
    rw [commandThen_err rest hfail hlt, takeBusFault_cut_eq_busFaulted, faultEvents_cons_of_lt cmds hlt]
  case inr =>
    obtain ⟨m, rfl⟩ := Nat.exists_eq_add_of_le hge
    have hok : s.env.busOk ((commandOf s.cfg s.fb p).payload.length + 1) :=
      fun k hk => hfail.1 k (Nat.lt_add_right m hk)
    have hm : m < wireLength cmds := Nat.lt_of_add_lt_add_left hn
    rw [commandThen_ok rest hok, h m (Env.failsAt_dropBus hfail) hm, sent_busFaulted, faultEvents_cons_add]
    rfl

theorem updateBody_busFaults (s : State) : BusFaults s (updateBody s) (updateCommands s.cfg s.fb) := by
  rw [updateBody_eq_chain]
  exact .cons (.cons (.cons (.nil _ _)))

theorem powerOffBody_busFaults (s : State) : BusFaults s (powerOffBody s) (powerOffCommands s.cfg) := by
  rw [powerOffBody_eq_chain]
  exact .cons (.nil _ _)

/-- INIT faults as its two commands do, from the state its reset-ready wait leaves. -/
theorem initBody_busFaults {s t : State} {e : Word}
    (h : waitReady (durationWord s.cfg.initTimeoutUs) (resetPulse s) = (.ok e, t)) :
    BusFaults t (initBody s) (initCommands t.cfg) := by
  rw [initBody_of_ready h]
  exact .cons (.cons (.nil _ _))

/-! ### The reset-ready wait of INIT -/

/-- 00_scope.md R6, 42_busy_gate.md R152: the poll delay is positive and the bound of INIT's waits a 32-bit value. -/
theorem Config.wf_wait_init {c : Config} (h : c.wf = true) :
    1 ≤ c.pollDelayUs ∧ (durationWord c.initTimeoutUs).toNat = c.initTimeoutUs := by
  simp only [Config.wf, Config.durationsOk, Bool.and_eq_true, decide_eq_true_eq] at h
  obtain ⟨⟨⟨-, ⟨⟨-, hinit⟩, -⟩, -⟩, hpoll⟩, -⟩ := h
  exact ⟨hpoll, Nat.mod_eq_of_lt (by omega)⟩

theorem waitReady_resetPulse {s : State} {j : Nat} (hwf : s.cfg.wf = true) (hidle : s.env.idleAt s.cfg j)
    (hj : j ≤ pollCount s.cfg s.cfg.initTimeoutUs) :
    waitReady (durationWord s.cfg.initTimeoutUs) (resetPulse s)
      = (.ok (BitVec.ofNat 32 (j * s.cfg.pollDelayUs)), (resetPulse s).polled (j + 1) (readyEvents s.cfg j)) := by
  obtain ⟨hpoll, hbound⟩ := Config.wf_wait_init hwf
  exact waitReady_idle (s := resetPulse s) hpoll hidle (by rw [hbound]; exact hj)

/-! ### The obligation -/

/-- Settles O30: each operation past its state check is a chain of commands, and a chain faults precisely
(`BusFaults.cons`); INIT's chain begins after the pulse and the ready wait. -/
theorem busFaultIsPrecise : Obligations.BusFaultIsPrecise := by
  intro s n hwf hfail u
  refine ⟨fun hst hn j hidle hj => ?_, fun hst hn => ?_, fun hst hn => ?_⟩
  · have hfault := initBody_busFaults (waitReady_resetPulse hwf hidle hj) n hfail hn
    simp only [exec, execInit, if_pos hst, hfault, pulsed_polled_busFaulted]
    rfl
  · simp only [exec, execUpdate, if_pos hst, updateBody_busFaults s n hfail hn]
    rfl
  · simp only [exec, execPowerOff, if_pos hst, powerOffBody_busFaults s n hfail hn]
    rfl

end Sys2Proof.Machine
end

section
/-! PROOFS of the family 42_busy_gate.md: what WAIT_READY answers, and that it writes nothing. Both statements are
about one end state: a wait, then the response (`respond_polled`). -/

namespace Sys2Proof.Machine

/-! ### The response after a wait -/

theorem respond_polled (s : State) (n : Nat) (es : List Event) (st : Status) (d : Word) :
    (s.polled n es).respond st d = { s with env := s.env.dropBusy n }.finished (es ++ [Event.rsp st d]) := by
  rw [respond_eq_finished]
  simp only [State.finished, State.polled, List.append_assoc]

/-! ### One equation per outcome -/

/-- 42_busy_gate.md R153, R155: the first idle sample lies within the bound. -/
theorem exec_waitReady_idle {s : State} {t : Word} {j : Nat} (hp : 1 ≤ s.cfg.pollDelayUs)
    (h : s.env.idleAt s.cfg j) (hj : j ≤ pollCount s.cfg t.toNat) :
    exec (.waitReady t) s = .next ({ s with env := s.env.dropBusy (j + 1) }.finished
      (readyEvents s.cfg j ++ [Event.rsp .ok (BitVec.ofNat 32 (j * s.cfg.pollDelayUs))])) := by
  simp only [exec, execWaitReady, waitReady_idle hp h hj, respond_polled]

/-- 42_busy_gate.md R153, R155: every sample within the bound is busy. -/
theorem exec_waitReady_busy {s : State} {t : Word} (hp : 1 ≤ s.cfg.pollDelayUs)
    (h : s.env.busyFor s.cfg (pollCount s.cfg t.toNat + 1)) :
    exec (.waitReady t) s
      = .next ({ s with env := s.env.dropBusy (pollCount s.cfg t.toNat + 1) }.finished
          (timeoutEvents s.cfg (pollCount s.cfg t.toNat) ++ [Event.rsp .timeout 0])) := by
  simp only [exec, execWaitReady, waitReady_busy hp h, respond_polled]

/-- 42_busy_gate.md R156: the one shape of every outcome, in every state. -/
theorem exec_waitReady_quiet (t : Word) (s : State) :
    ∃ n es, (∀ e ∈ es, e.isQuiet = true)
      ∧ exec (.waitReady t) s = .next ({ s with env := s.env.dropBusy n }.finished es) := by
  obtain ⟨n, es, st, d, hquiet, hexec⟩ := execWaitReady_cases t s
  refine ⟨n, es ++ [Event.rsp st d], ?_, hexec.trans (by rw [respond_polled])⟩
  simpa only [List.forall_mem_append, List.forall_mem_singleton] using ⟨hquiet, rfl⟩

theorem Event.isWrite_of_isQuiet {e : Event} (h : e.isQuiet = true) : e.isWrite = false := by
  cases e with
  | line l v => cases h
  | bus b => cases h
  | delay n => rfl
  | sample v => rfl
  | rsp st d => rfl

/-! ### The obligations -/

/-- Settles O22: a well-formed configuration polls with a positive delay, so the loop follows the panel's first idle
sample, or its absence, up to the bound. -/
theorem waitReadyFollowsTheGate : Obligations.WaitReadyFollowsTheGate := by
  intro s t hwf n
  obtain ⟨hpoll, -⟩ := Config.wf_wait_init hwf
  exact ⟨fun _ hidle hj => exec_waitReady_idle hpoll hidle hj, fun hbusy => exec_waitReady_busy hpoll hbusy⟩

/-- Settles O23: the events of a wait are quiet, and quiet events write no line and no byte. -/
theorem waitReadyWritesNothing : Obligations.WaitReadyWritesNothing := by
  intro s t
  obtain ⟨n, es, hquiet, hexec⟩ := exec_waitReady_quiet t s
  have hwrite : ∀ e ∈ es, e.isWrite = false := fun e he => Event.isWrite_of_isQuiet (hquiet e he)
  exact ⟨_, es, hexec, rfl, hwrite, panelBytes_quiet hquiet _ _, resetHistory_quiet hquiet,
    rfl, rfl, rfl, rfl, rfl, rfl, rfl, rfl, rfl, rfl⟩

end Sys2Proof.Machine
end

section
/-! PROOFS of the family 43_display_protocol.md: a protocol operation in a wrong state does nothing but answer
InvalidState. The rejection is one state (`rejectState_eq_finished`); its data is read as a number from the layout of
R165, field by field. -/

namespace Sys2Proof.Machine

/-! ### The data of an InvalidState response as a number -/

theorem toNat_append_eq_add {m n : Nat} (x : BitVec m) (y : BitVec n) :
    (x ++ y).toNat = 2 ^ n * x.toNat + y.toNat := by
  rw [BitVec.toNat_append, ← Nat.shiftLeft_add_eq_or_of_lt y.isLt, Nat.shiftLeft_eq, Nat.mul_comm]

/-- 30_encoding.md R85, 43_display_protocol.md R165: the three codes stand at bits 2:0, 6:4 and 10:8. -/
theorem invalidStateData_eq_ofNat (required current : PanelState) (reason : FaultReason) :
    invalidStateData required current reason
      = BitVec.ofNat 32 (required.code.toNat + 2 ^ 4 * current.code.toNat + 2 ^ 8 * reason.code.toNat) := by
  have hnum : (invalidStateData required current reason).toNat
      = required.code.toNat + 2 ^ 4 * current.code.toNat + 2 ^ 8 * reason.code.toNat := by
    simp only [invalidStateData, toNat_append_eq_add, BitVec.ofNat_eq_ofNat, BitVec.toNat_ofNat, Nat.zero_mod]
    omega
  rw [← hnum, BitVec.ofNat_toNat, BitVec.setWidth_eq]

/-! ### The rejection of each operation -/

theorem rejectState_eq_finished (required : PanelState) (s : State) :
    s.rejectState required
      = s.finished [Event.rsp .invalidState (invalidStateData required s.state s.faultReason)] :=
  respond_eq_finished _ _ _

theorem exec_init_rejected {s : State} (h : s.state ≠ .uninitialized) :
    exec .init s = .next (s.rejectState .uninitialized) := if_neg h

theorem exec_update_rejected {s : State} (h : s.state ≠ .ready) :
    exec .update s = .next (s.rejectState .ready) := if_neg h

theorem exec_powerOff_rejected {s : State} (h : s.state ≠ .ready) :
    exec .powerOff s = .next (s.rejectState .ready) := if_neg h

/-! ### The obligation -/

/-- Settles O31: each state check fails before any event, and the rejection's data has the codes of STATE and
FAULT_REASON as its fields. -/
theorem stateCheckComesFirst : Obligations.StateCheckComesFirst := by
  intro s current reason
  have hcurrent : s.state.code.toNat = current := by
    cases hs : s.state <;> simp only [current, hs] <;> rfl
  have hreason : s.faultReason.code.toNat = reason := by
    cases hr : s.faultReason <;> simp only [reason, hr] <;> rfl
  have hreject (required : PanelState) : s.rejectState required = s.finished [Event.rsp .invalidState
      (BitVec.ofNat 32 (required.code.toNat + 2 ^ 4 * current + 2 ^ 8 * reason))] := by
    rw [rejectState_eq_finished, invalidStateData_eq_ofNat, hcurrent, hreason]
  refine ⟨fun h => ?_, fun h => ?_, fun h => ?_⟩
  · rw [exec_init_rejected h, hreject]; rfl
  · rw [exec_update_rejected h, hreject]; rfl
  · rw [exec_powerOff_rejected h, hreject]; rfl

end Sys2Proof.Machine
end

section
/-! PROOFS of the family 'other', encoding (30_encoding.md): encoder and decoder are both read field by field
(`encode_eq_request_iff`, `decodeRequest_eq_ok_iff`), and so are the rows of the table and the illegal words. -/

namespace Sys2Proof

/-! ### The request word, field by field -/

/-- The fields of the request word of a host operation (30_encoding.md R82); a panel command has none. -/
def Instr.requestFields : Instr → Option ReqFields
  | .init => some { op := 0x1, rsv := 0, color := 0, x := 0, y := 0 }
  | .update => some { op := 0x2, rsv := 0, color := 0, x := 0, y := 0 }
  | .powerOff => some { op := 0x3, rsv := 0, color := 0, x := 0, y := 0 }
  | .setPixel x y col => some { op := 0x4, rsv := 0, color := col.code, x := x, y := y }
  | .clear col => some { op := 0x5, rsv := 0, color := col.code, x := 0, y := 0 }
  | .getPixel x y => some { op := 0x6, rsv := 0, color := 0, x := x, y := y }
  | .waitReady t => some { op := 0x7, rsv := 0, color := 0, x := t.extractLsb' 16 16, y := t.extractLsb' 0 16 }
  | .setResolution | .loadWaveformTable | .beginDataTransferBlack | .beginDataTransferAccent | .refresh
  | .powerDown => none

theorem toWord_eq_iff {f : ReqFields} {w : ReqWord} : f.toWord = w ↔ f = ReqFields.ofWord w := by
  rw [← ReqFields.ofWord_inj, ReqFields.ofWord_toWord]

/-- The encoder, field by field. -/
theorem encode_eq_request_iff {c : Config} {i : Instr} {w : ReqWord} :
    encode c i = .request w ↔ i.requestFields = some (ReqFields.ofWord w) := by
  cases i <;> simp only [encode, Instr.requestFields, noCoords, waitReady_word, toWord_eq_iff,
    Code.request.injEq, Option.some.injEq, reduceCtorEq]

theorem reqTimeout_eq (w : ReqWord) : reqTimeout w = (ReqFields.ofWord w).x ++ (ReqFields.ofWord w).y := by
  rw [← reqTimeout_toWord, ReqFields.toWord_ofWord]

/-- The timeout operand is its two halves put together (30_encoding.md R81). -/
theorem extractLsb'_append_extractLsb' (t : Word) : t.extractLsb' 16 16 ++ t.extractLsb' 0 16 = t :=
  (BitVec.extractLsb'_append_extractLsb'_eq_extractLsb' rfl).trans BitVec.extractLsb'_eq_self

theorem extractLsb'_append_high (x y : Coord) : BitVec.extractLsb' 16 16 (x ++ y : Word) = x :=
  BitVec.extractLsb'_append_eq_left

theorem extractLsb'_append_low (x y : Coord) : BitVec.extractLsb' 0 16 (x ++ y : Word) = y :=
  BitVec.extractLsb'_append_eq_right

theorem decodeRequest_of_requestFields {i : Instr} {w : ReqWord}
    (h : i.requestFields = some (ReqFields.ofWord w)) : decodeRequest w = .ok i := by
  cases i <;> simp only [Instr.requestFields, Option.some.injEq, reduceCtorEq] at h <;>
    simp [decodeRequest, reqTimeout_eq, ← h, extractLsb'_append_extractLsb']

theorem ReqFields.eq_of_op {f : ReqFields} {k : Nat} (hop : f.op.toNat = k) (hrsv : ¬ f.rsv ≠ 0) :
    f = { op := BitVec.ofNat 4 k, rsv := 0, color := f.color, x := f.x, y := f.y } := by
  obtain ⟨op, rsv, color, x, y⟩ := f
  simp_all [← hop]

theorem ite_ok_eq_ok_iff {p : Prop} [Decidable p] {e : IllegalEncoding} {i j : Instr} :
    (if p then Except.ok j else Except.error e) = .ok i ↔ p ∧ j = i := by
  by_cases hp : p <;> simp [hp]

theorem requestFields_of_decodeRequest {i : Instr} {w : ReqWord} (h : decodeRequest w = .ok i) :
    i.requestFields = some (ReqFields.ofWord w) := by
  simp only [decodeRequest] at h
  split at h
  case isTrue => cases h
  case isFalse hrsv =>
  split at h
  case h_1 hop | h_2 hop | h_3 hop | h_6 hop | h_7 hop =>
    obtain ⟨hunused, rfl⟩ := ite_ok_eq_ok_iff.1 h
    rw [ReqFields.eq_of_op hop hrsv]
    simp [Instr.requestFields, reqTimeout_eq, hunused, extractLsb'_append_high, extractLsb'_append_low]
  case h_4 hop =>
    split at h
    case h_1 c hc =>
      cases h
      rw [ReqFields.eq_of_op hop hrsv]
      simp [Instr.requestFields, code_of_colorOfCode hc]
    case h_2 => cases h
  case h_5 hop =>
    split at h
    case isTrue hunused =>
      split at h
      case h_1 c hc =>
        cases h
        rw [ReqFields.eq_of_op hop hrsv]
        simp [Instr.requestFields, code_of_colorOfCode hc, hunused]
      case h_2 => cases h
    case isFalse => cases h
  case h_8 => cases h

/-- The decoder, field by field: what it accepts, and nothing else (30_encoding.md R82, R90). -/
theorem decodeRequest_eq_ok_iff {i : Instr} {w : ReqWord} :
    decodeRequest w = .ok i ↔ i.requestFields = some (ReqFields.ofWord w) :=
  ⟨requestFields_of_decodeRequest, decodeRequest_of_requestFields⟩

/-- Settles O1: both sides say that the word has the operation's fields. -/
theorem requestDecodeOfEncode : Obligations.RequestDecodeOfEncode := by
  intro c i w h
  exact decodeRequest_eq_ok_iff.2 (encode_eq_request_iff.1 h)

/-- Settles O2: both sides say that the word has the operation's fields. -/
theorem requestEncodeOfDecode : Obligations.RequestEncodeOfDecode := by
  intro c i w h
  exact encode_eq_request_iff.2 (decodeRequest_eq_ok_iff.1 h)

/-! ### The mask and match table -/

/-- Every mask keeps the whole op field (30_encoding.md R82). -/
theorem TableRow.op_eq_of_selects {r : TableRow} {w : ReqWord} (hr : r ∈ requestTable) (h : r.selects w = true) :
    (ReqFields.ofWord w).op = (ReqFields.ofWord r.pattern).op := by
  have hmask : ∀ r ∈ requestTable, (ReqFields.ofWord r.mask).op = BitVec.allOnes 4 := by decide
  simp only [TableRow.selects, Bool.and_eq_true, beq_iff_eq] at h
  obtain ⟨hop, -⟩ := (and_eq_iff _ _ _).1 h.1
  rwa [hmask r hr, BitVec.and_allOnes] at hop

/-- No two rows have one op (30_encoding.md R82). -/
theorem requestTable_eq_of_op {r r' : TableRow} (hr : r ∈ requestTable) (hr' : r' ∈ requestTable)
    (h : (ReqFields.ofWord r.pattern).op = (ReqFields.ofWord r'.pattern).op) : r = r' := by
  have hall : ∀ r ∈ requestTable, ∀ r' ∈ requestTable,
      (ReqFields.ofWord r.pattern).op = (ReqFields.ofWord r'.pattern).op → r = r' := by decide
  exact hall r hr r' hr' h

theorem tableRow_mem {i : Instr} {r : TableRow} (h : i.tableRow = some r) : r ∈ requestTable := by
  cases i <;> simp only [Instr.tableRow, reduceCtorEq] at h <;> exact List.mem_of_getElem? h

theorem tableRow_selects_of_decodeRequest {i : Instr} {w : ReqWord} (h : decodeRequest w = .ok i) :
    ∃ r, i.tableRow = some r ∧ r.selects w = true := by
  have hrow : Laws.OwnRow.Statement i := by
    cases i
    case init => exact Laws.OwnRow.init
    case update => exact Laws.OwnRow.update
    case powerOff => exact Laws.OwnRow.powerOff
    case setPixel x y col => exact Laws.OwnRow.setPixel x y col
    case clear col => exact Laws.OwnRow.clear col
    case getPixel x y => exact Laws.OwnRow.getPixel x y
    case waitReady t => exact Laws.OwnRow.waitReady t
    all_goals cases decodeRequest_eq_ok_iff.1 h
  simpa [encode_eq_request_iff.2 (decodeRequest_eq_ok_iff.1 h)] using hrow Config.illustrative

/-- A word that selects a row has the fields of the row's operation. -/
theorem decodeRequest_of_selects {r : TableRow} {w : ReqWord} (hr : r ∈ requestTable) (h : r.selects w = true) :
    ∃ i, decodeRequest w = .ok i := by
  have mask2 (b : BitVec 2) : b &&& 3#2 = b := BitVec.and_allOnes
  have mask4 (b : BitVec 4) : b &&& 15#4 = b := BitVec.and_allOnes
  have mask16 (b : BitVec 16) : b &&& 65535#16 = b := BitVec.and_allOnes
  have legal {b : BitVec 2} (hb : ¬ b = 3#2) : ∃ c : Color, c.code = b :=
    (Option.ne_none_iff_exists'.1 (mt colorOfCode_eq_none.1 hb)).imp fun _ => code_of_colorOfCode
  simp only [decodeRequest_eq_ok_iff]
  simp only [TableRow.selects, Bool.and_eq_true, beq_iff_eq, and_eq_iff] at h
  obtain ⟨⟨hop, hrsv, hcolor, hx, hy⟩, hres⟩ := h
  generalize ReqFields.ofWord w = f at *
  obtain ⟨op, rsv, color, x, y⟩ := f
  simp only [requestTable, List.mem_cons, List.not_mem_nil, or_false] at hr
  rcases hr with rfl | rfl | rfl | rfl | rfl | rfl | rfl <;>
    simp [ReqFields.ofWord, mask2, mask4, mask16] at hop hrsv hcolor hx hy hres <;> subst hop hrsv
  · exact ⟨.init, by simp [Instr.requestFields, hcolor, hx, hy]⟩
  · exact ⟨.update, by simp [Instr.requestFields, hcolor, hx, hy]⟩
  · exact ⟨.powerOff, by simp [Instr.requestFields, hcolor, hx, hy]⟩
  · obtain ⟨c, rfl⟩ := legal hres
    exact ⟨.setPixel x y c, rfl⟩
  · obtain ⟨c, rfl⟩ := legal hres
    exact ⟨.clear c, by simp [Instr.requestFields, hx, hy]⟩
  · exact ⟨.getPixel x y, by simp [Instr.requestFields, hcolor]⟩
  · exact ⟨.waitReady (x ++ y), by
      simp [Instr.requestFields, hcolor, extractLsb'_append_high, extractLsb'_append_low]⟩

/-- Settles O4: an accepted word selects its own row, and rows of different op exclude each other; a word that selects a
row is accepted. -/
theorem decoderAgreesWithMaskMatchTable : Obligations.DecoderAgreesWithMaskMatchTable := by
  intro w
  refine ⟨fun i hi => ?_, fun e he r hr => ?_⟩
  · obtain ⟨r, hrow, hsel⟩ := tableRow_selects_of_decodeRequest hi
    have hr := tableRow_mem hrow
    refine ⟨r, hrow, hsel, fun r' hr' hsel' => requestTable_eq_of_op hr' hr ?_⟩
    rw [← TableRow.op_eq_of_selects hr' hsel', ← TableRow.op_eq_of_selects hr hsel]
  · rw [Bool.eq_false_iff]
    intro hsel
    obtain ⟨i, hi⟩ := decodeRequest_of_selects hr hsel
    rw [he] at hi
    cases hi

/-! ### The illegal words -/

/-- 30_encoding.md R90 (a) to (d) on the fields of a word. -/
def ReqFields.Illegal (f : ReqFields) : Prop :=
  (f.op.toNat = 0 ∨ 8 ≤ f.op.toNat) ∨ f.rsv.toNat ≠ 0
    ∨ ((f.op.toNat = 1 ∨ f.op.toNat = 2 ∨ f.op.toNat = 3) ∧ (f.color.toNat ≠ 0 ∨ f.x.toNat ≠ 0 ∨ f.y.toNat ≠ 0))
    ∨ (f.op.toNat = 5 ∧ (f.x.toNat ≠ 0 ∨ f.y.toNat ≠ 0)) ∨ ((f.op.toNat = 6 ∨ f.op.toNat = 7) ∧ f.color.toNat ≠ 0)
    ∨ ((f.op.toNat = 4 ∨ f.op.toNat = 5) ∧ f.color.toNat = 3)

theorem colorOfCode_eq_none_iff_toNat {b : BitVec 2} : colorOfCode b = none ↔ b.toNat = 3 := by
  rw [colorOfCode_eq_none, ← BitVec.toNat_inj]
  rfl

/-- 30_encoding.md R90: what the decoder rejects. -/
theorem decodeRequest_error_iff (w : ReqWord) :
    (∃ e, decodeRequest w = .error e) ↔ (ReqFields.ofWord w).Illegal := by
  simp only [decodeRequest, ReqFields.Illegal]
  generalize ReqFields.ofWord w = f
  have hzero {n : Nat} (b : BitVec n) : b = 0 ↔ b.toNat = 0 := by rw [← BitVec.toNat_inj]; simp
  simp only [ne_eq, hzero]
  split
  case isTrue hrsv => simp; omega
  case isFalse hrsv =>
  split
  case h_1 hop | h_2 hop | h_3 hop | h_6 hop | h_7 hop => split <;> simp <;> omega
  case h_4 hop =>
    have hcolor := @colorOfCode_eq_none_iff_toNat f.color
    split <;> simp_all
  case h_5 hop =>
    have hcolor := @colorOfCode_eq_none_iff_toNat f.color
    split
    · split <;> simp_all
    · simp; omega
  case h_8 =>
    simp only [imp_false] at *
    simp
    omega

/-- 30_encoding.md R81: the fields of a word as numbers. -/
theorem toNat_ofWord (w : ReqWord) :
    (ReqFields.ofWord w).op.toNat = w.toNat / 2 ^ 36 ∧ (ReqFields.ofWord w).rsv.toNat = w.toNat / 2 ^ 34 % 4
      ∧ (ReqFields.ofWord w).color.toNat = w.toNat / 2 ^ 32 % 4
      ∧ (ReqFields.ofWord w).x.toNat = w.toNat / 2 ^ 16 % 2 ^ 16 ∧ (ReqFields.ofWord w).y.toNat = w.toNat % 2 ^ 16 := by
  have hw := w.isLt
  simp only [ReqFields.ofWord, BitVec.extractLsb'_toNat, Nat.shiftRight_eq_div_pow]
  exact ⟨Nat.mod_eq_of_lt (by omega), trivial, trivial, trivial, by rw [pow_zero, Nat.div_one]⟩

/-- Settles O5: the four cases on the fields, and the fields as numbers. -/
theorem illegalWordsAreTheFourCases : Obligations.IllegalWordsAreTheFourCases := by
  intro w
  obtain ⟨hop, hrsv, hcolor, hx, hy⟩ := toNat_ofWord w
  rw [decodeRequest_error_iff, ReqFields.Illegal, hop, hrsv, hcolor, hx, hy]

/-! ### Commands, samples and the layout of the outputs -/

/-- Settles O3: the search for the opcode byte stops at the command, the bytes before it being others. -/
theorem commandDecodeOfEncode : Obligations.CommandDecodeOfEncode := by
  intro c p hdistinct
  have hcode : encode c p.instr = .command (c.opcode p) := by cases p <;> rfl
  have hfirst : PanelCmd.all.find? (fun q => c.opcode q == c.opcode p) = some p := by
    simp only [Config.opcodesDistinct, decide_eq_true_eq] at hdistinct
    cases p <;> simp_all [PanelCmd.all, Config.opcode]
  simp only [hcode, decode, decodeCommand, hfirst]
  rfl

/-- Settles O6: seven closed decodings. -/
theorem sampleWordsDecode : Obligations.SampleWordsDecode := by
  unfold Obligations.SampleWordsDecode
  decide

/-- Settles O21: the levels of SCK are constants, so the edges are found by computation for every byte. -/
theorem byteWaveform : Obligations.ByteWaveform := fun _ => ⟨rfl, rfl, rfl⟩

end Sys2Proof

namespace Sys2Proof.Machine

/-- Settles O7: the word is an append, the status code its high part. -/
theorem responseWordLayout : Obligations.ResponseWordLayout := by
  intro st d
  rw [rspWord, toNat_append_eq_add]
  cases st <;> rfl

/-- Settles O54: the output is an append of the flag and the two codes. -/
theorem statusOutputLayout : Obligations.StatusOutputLayout := by
  intro s
  simp only [State.statusOut, toNat_append_eq_add]
  cases s.busyFlag <;> cases s.faultReason <;> cases s.state <;> rfl

end Sys2Proof.Machine
end

section
/-! PROOFS of the family 'other', the pixel store and the planes (40_framebuffer.md): the loops of the pseudocode
compute the closed forms, cell by cell (CLEAR) and bit by bit (the serializer). -/

namespace Sys2Proof.Machine

/-! ### The loop of CLEAR -/

/-- A cell past a store in canonical form is White. -/
theorem Memory.read_of_le {n a : Nat} {m : Memory} (h : Memory.wf n m) (ha : n ≤ a) : m.read a = .white := by
  obtain ⟨-, hcells⟩ := h
  induction m with
  | nil => rfl
  | cons p m ih =>
    have hp : a ≠ p.1 := Nat.ne_of_gt (Nat.lt_of_lt_of_le (hcells p (by simp)).1 ha)
    rw [Memory.read, if_neg hp]
    exact ih fun q hq => hcells q (by simp [hq])

theorem foldl_write_wf {n : Nat} (v : Color) {l : List Nat} (hl : ∀ a ∈ l, a < n) {m : Memory} (h : Memory.wf n m) :
    Memory.wf n (l.foldl (fun m a => m.write a v) m) := by
  induction l generalizing m with
  | nil => exact h
  | cons a l ih => exact ih (fun b hb => hl b (by simp [hb])) (Memory.write_wf v (hl a (by simp)) h)

theorem read_foldl_write {n : Nat} (v : Color) {l : List Nat} (hl : ∀ a ∈ l, a < n) {m : Memory} (h : Memory.wf n m)
    (a : Nat) : (l.foldl (fun m b => m.write b v) m).read a = if a ∈ l then v else m.read a := by
  induction l generalizing m with
  | nil => simp
  | cons b l ih =>
    rw [List.foldl_cons, ih (fun c hc => hl c (by simp [hc])) (Memory.write_wf v (hl b (by simp)) h),
      Memory.read_write b a v h.1]
    by_cases hab : a = b <;> simp [hab]

theorem fill_eq_clearLoop {n : Nat} (v : Color) {m : Memory} (h : Memory.wf n m) :
    Memory.fill n v = clearLoop n v m := by
  have hrange : ∀ a ∈ List.range n, a < n := fun a => List.mem_range.1
  refine Memory.ext (Memory.fill_wf n v) (foldl_write_wf v hrange h) fun a => ?_
  rw [Memory.read_fill, clearLoop, read_foldl_write v hrange h]
  simp only [List.mem_range]
  split
  · rfl
  · next ha => rw [Memory.read_of_le h (Nat.le_of_not_lt ha)]

/-- Settles O11: the closed form and the loop are stores in canonical form with the same contents. -/
theorem clearIsItsLoopOfWrites : Obligations.ClearIsItsLoopOfWrites := by
  intro s t col hwf h
  rw [exec_clear] at h
  cases h
  exact fill_eq_clearLoop col hwf

/-! ### Pixel addresses -/

theorem pixelAddr_injective {c : Config} {x y x' y' : Coord} (hx : x.toNat < c.width) (hx' : x'.toNat < c.width)
    (h : pixelAddr c x y = pixelAddr c x' y') : x = x' ∧ y = y' := by
  have hmod {a b : Coord} (ha : a.toNat < c.width) : pixelAddr c a b % c.width = a.toNat := by
    rw [pixelAddr, Nat.mul_add_mod', Nat.mod_eq_of_lt ha]
  have hdiv {a b : Coord} (ha : a.toNat < c.width) : pixelAddr c a b / c.width = b.toNat := by
    rw [pixelAddr, Nat.add_comm, Nat.add_mul_div_right _ _ (Nat.zero_lt_of_lt ha), Nat.div_eq_of_lt ha, Nat.zero_add]
  exact ⟨BitVec.eq_of_toNat_eq (by rw [← hmod hx, h, hmod hx']), BitVec.eq_of_toNat_eq (by rw [← hdiv hx, h, hdiv hx'])⟩

theorem cellCount_lt {c : Config} (h : c.wf = true) : cellCount c < 2 ^ 32 := by
  simp only [Config.wf, Config.dimensionsOk, Bool.and_eq_true, decide_eq_true_eq] at h
  obtain ⟨⟨⟨⟨⟨⟨-, hw⟩, -⟩, hh⟩, -⟩, -⟩, -⟩ := h
  exact Nat.lt_of_le_of_lt (Nat.mul_le_mul hw hh) (by decide)

/-- Settles O12: column and row are the remainder and the quotient of the address by the width. -/
theorem pixelAddressesAreDistinctCells : Obligations.PixelAddressesAreDistinctCells := by
  intro c x y x' y' hwf hb hb'
  exact ⟨pixelAddr_lt_cellCount hb, cellCount_lt hwf, pixelAddr_injective (inBounds_iff.1 hb).1 (inBounds_iff.1 hb').1⟩

/-! ### The planes, bit by bit -/

/-- The byte at an index of a plane is a byte of the row and the lane the index stands for. -/
theorem getElem?_plane_eq_some {c : Config} {bit : Color → Bool} {m : Memory} {k : Nat} {b : Byte}
    (h : (plane c bit m)[k]? = some b) : b = planeByte c bit m (k / rowBytes c) (k % rowBytes c) := by
  have hk : k < rowBytes c * c.height := by
    rw [← length_plane c bit m]
    exact (List.getElem?_eq_some_iff.1 h).1
  have hrow : 0 < rowBytes c := Nat.pos_of_mul_pos_right (Nat.zero_lt_of_lt hk)
  have hb := getElem?_plane c bit m (Nat.div_lt_of_lt_mul hk) (Nat.mod_lt k hrow)
  rw [Nat.div_add_mod'] at hb
  exact Option.some.inj (h.symm.trans hb)

/-- Settles O15: the two bytes have the channel bits of the same pixels, and no color has both bits. -/
theorem planesNeverBothSet : Obligations.PlanesNeverBothSet := by
  intro c m k b a hb ha
  obtain rfl := getElem?_plane_eq_some hb
  obtain rfl := getElem?_plane_eq_some ha
  have hbits (v : Color) : (blackBit v && accentBit v) = false := by cases v <;> rfl
  refine BitVec.eq_of_getLsbD_eq fun i hi => ?_
  rw [BitVec.getLsbD_and, getLsbD_planeByte _ _ _ _ _ hi, getLsbD_planeByte _ _ _ _ _ hi, channelBit, channelBit,
    Bool.and_left_comm, Bool.and_assoc, hbits]
  simp

/-- Bit `i` of byte `k` of a byte list. -/
def bitAt (out : List Byte) (k i : Nat) : Bool := (out[k]?.getD 0).getLsbD i

/-- The loop writes bit `i` of byte `k` at the pixel in column `x` of row `y`. -/
def loopSets (c : Config) (bit : Color → Bool) (m : Memory) (k i y x : Nat) : Prop :=
  k = y * rowBytes c + x / 8 ∧ i = 7 - x % 8 ∧ bit (m.read (y * c.width + x)) = true

theorem length_foldl {α : Type} {f : List Byte → α → List Byte} (hlen : ∀ out a, (f out a).length = out.length)
    (l : List α) (out : List Byte) : (l.foldl f out).length = out.length := by
  induction l generalizing out with
  | nil => rfl
  | cons a l ih => rw [List.foldl_cons, ih, hlen]

/-- A loop whose body keeps the length and sets a bit for some of its indices sets it when one of them does. -/
theorem bitAt_foldl {α : Type} {f : List Byte → α → List Byte} {n k i : Nat} {hit : α → Prop}
    (hlen : ∀ out a, (f out a).length = out.length)
    (hbit : ∀ out a, out.length = n → (bitAt (f out a) k i = true ↔ bitAt out k i = true ∨ hit a))
    (l : List α) (out : List Byte) (hout : out.length = n) :
    bitAt (l.foldl f out) k i = true ↔ bitAt out k i = true ∨ ∃ a ∈ l, hit a := by
  induction l generalizing out with
  | nil => simp
  | cons a l ih =>
    rw [List.foldl_cons, ih (f out a) ((hlen out a).trans hout), hbit out a hout]
    simp [or_assoc]

theorem length_planeLoopPixel (c : Config) (bit : Color → Bool) (m : Memory) (y : Nat) (out : List Byte) (x : Nat) :
    (planeLoopPixel c bit m y out x).length = out.length := by
  unfold planeLoopPixel
  split <;> simp

theorem bitAt_planeLoopPixel (c : Config) (bit : Color → Bool) (m : Memory) (y x : Nat) {out : List Byte} {k i : Nat}
    (hk : k < out.length) (hi : i < 8) :
    bitAt (planeLoopPixel c bit m y out x) k i = true ↔ bitAt out k i = true ∨ loopSets c bit m k i y x := by
  unfold planeLoopPixel loopSets
  split
  · next hset =>
    simp only [bitAt, List.getElem?_modify, hset]
    by_cases hkx : y * rowBytes c + x / 8 = k
    · have hlane : i = 7 - x % 8 ↔ x % 8 = 7 - i := by omega
      simp only [hkx, if_true, List.getElem?_eq_getElem hk, Option.map_eq_map, Option.map_some, Option.getD_some,
        getLsbD_or_lane _ hi (Nat.mod_lt x (by decide)), Bool.or_eq_true, decide_eq_true_eq, hlane, true_and, and_true]
    · simp [hkx, Ne.symm hkx]
  · next hset => simp [hset]

theorem length_planeLoopRow (c : Config) (bit : Color → Bool) (m : Memory) (out : List Byte) (y : Nat) :
    ((List.range c.width).foldl (planeLoopPixel c bit m y) out).length = out.length :=
  length_foldl (length_planeLoopPixel c bit m y) _ out

theorem length_planeLoop (c : Config) (bit : Color → Bool) (m : Memory) :
    (planeLoop c bit m).length = rowBytes c * c.height := by
  rw [planeLoop, length_foldl (length_planeLoopRow c bit m), List.length_replicate]

theorem bitAt_planeLoop (c : Config) (bit : Color → Bool) (m : Memory) {k i : Nat} (hk : k < rowBytes c * c.height)
    (hi : i < 8) :
    bitAt (planeLoop c bit m) k i = true ↔ ∃ y < c.height, ∃ x < c.width, loopSets c bit m k i y x := by
  have hrow (out : List Byte) (y : Nat) (hout : out.length = rowBytes c * c.height) :=
    bitAt_foldl (length_planeLoopPixel c bit m y)
      (fun out x hout => bitAt_planeLoopPixel c bit m y x (hout ▸ hk) hi) (List.range c.width) out hout
  rw [planeLoop, bitAt_foldl (length_planeLoopRow c bit m) hrow _ _ List.length_replicate]
  simp [bitAt, hk]

/-- The pixel whose bit a lane holds (40_framebuffer.md R118): its column and row are the lane's own. -/
theorem exists_loopSets_iff (c : Config) (bit : Color → Bool) (m : Memory) {y q i : Nat} (hy : y < c.height)
    (hq : q < rowBytes c) (hi : i < 8) :
    (∃ y' < c.height, ∃ x < c.width, loopSets c bit m (y * rowBytes c + q) i y' x)
      ↔ channelBit c bit m y (8 * q + (7 - i)) = true := by
  simp only [channelBit, Bool.and_eq_true, decide_eq_true_eq]
  constructor
  · rintro ⟨y', -, x, hx, hk, hlane, hset⟩
    have hq' : x / 8 < rowBytes c := by unfold rowBytes; omega
    have hpos := Nat.zero_lt_of_lt hq
    obtain ⟨hy', -⟩ := (Nat.div_mod_unique hpos).2 ⟨(Nat.add_comm _ _).trans (Nat.mul_comm y' _ ▸ hk.symm), hq'⟩
    obtain rfl : y = y' := by
      rw [← hy', Nat.mul_comm, Nat.mul_add_div hpos, Nat.div_eq_of_lt hq, Nat.add_zero]
    obtain rfl : x = 8 * q + (7 - i) := by omega
    exact ⟨hx, hset⟩
  · rintro ⟨hx, hset⟩
    exact ⟨y, hy, _, hx, by omega, by omega, hset⟩

theorem plane_eq_planeLoop (c : Config) (bit : Color → Bool) (m : Memory) : plane c bit m = planeLoop c bit m := by
  refine List.ext_getElem (by rw [length_plane, length_planeLoop]) fun k hk hk' => ?_
  have hbyte := getElem?_plane_eq_some (List.getElem?_eq_getElem hk)
  rw [length_plane] at hk
  have hrow : 0 < rowBytes c := Nat.pos_of_mul_pos_right (Nat.zero_lt_of_lt hk)
  refine BitVec.eq_of_getLsbD_eq fun i hi => ?_
  have hloop : (planeLoop c bit m)[k].getLsbD i = bitAt (planeLoop c bit m) k i := by simp [bitAt, hk']
  rw [hbyte, hloop, getLsbD_planeByte _ _ _ _ _ hi, Bool.eq_iff_iff, bitAt_planeLoop c bit m hk hi,
    ← exists_loopSets_iff c bit m (Nat.div_lt_of_lt_mul hk) (Nat.mod_lt k hrow) hi, Nat.div_add_mod']

/-- Settles O14: the serializer and the loops give byte lists of one length with the same bits. -/
theorem planesAreTheirLoops : Obligations.PlanesAreTheirLoops := by
  intro c m _
  have hblack : blackBit = fun v => decide (v = .black) := funext fun v => by cases v <;> rfl
  have haccent : accentBit = fun v => decide (v = .accent) := funext fun v => by cases v <;> rfl
  rw [← hblack, ← haccent]
  exact ⟨plane_eq_planeLoop c blackBit m, plane_eq_planeLoop c accentBit m⟩

/-! ### The protocol state plays no part -/

/-- `s` with other values of the protocol state and the lines. -/
def State.withProtocol (s : State) (p : PanelState) (r : FaultReason) (cs dc rst : Level) : State :=
  { s with state := p, faultReason := r, cs := cs, dc := dc, rst := rst }

/-- Settles O16: each operation has one equation for each outcome of its bounds check, which holds of every state. -/
theorem framebufferOpsIgnoreTheProtocol : Obligations.FramebufferOpsIgnoreTheProtocol := by
  rintro s i (⟨x, y, col, rfl⟩ | ⟨x, y, rfl⟩ | ⟨col, rfl⟩)
  · by_cases hb : inBounds s.cfg x y = true
    · exact ⟨_, _, _, exec_setPixel_inBounds col hb, rfl, rfl, fun p r cs dc rst =>
        exec_setPixel_inBounds (s := s.withProtocol p r cs dc rst) col hb⟩
    · exact ⟨_, _, _, exec_setPixel_outOfBounds col hb, rfl, rfl, fun p r cs dc rst =>
        exec_setPixel_outOfBounds (s := s.withProtocol p r cs dc rst) col hb⟩
  · by_cases hb : inBounds s.cfg x y = true
    · exact ⟨_, _, _, exec_getPixel_inBounds hb, rfl, rfl, fun p r cs dc rst =>
        exec_getPixel_inBounds (s := s.withProtocol p r cs dc rst) hb⟩
    · exact ⟨_, _, _, exec_getPixel_outOfBounds hb, rfl, rfl, fun p r cs dc rst =>
        exec_getPixel_outOfBounds (s := s.withProtocol p r cs dc rst) hb⟩
  · exact ⟨_, _, _, exec_clear s col, rfl, rfl, fun p r cs dc rst => exec_clear (s.withProtocol p r cs dc rst) col⟩

end Sys2Proof.Machine
end

section
/-! PROOFS of the family 'other', the commands and the protocol operations run whole (41_command_encoder.md R131,
R133; 42_busy_gate.md R153; 43_display_protocol.md R162 to R164): each operation is a chain of commands and waits, and
each link has one equation for its outcome. -/

namespace Sys2Proof.Machine

/-! ### One panel command -/

theorem exec_instr (p : PanelCmd) (s : State) : exec p.instr s = .next (runCommand p s) := by cases p <;> rfl

/-- 41_command_encoder.md R131: all byte writes succeed. -/
theorem exec_instr_ok {p : PanelCmd} {s : State} (h : s.env.busOk ((commandOf s.cfg s.fb p).payload.length + 1)) :
    exec p.instr s = .next { (s.sent (commandOf s.cfg s.fb p)).clearCommand with phase := phaseAfter p } := by
  simp only [exec_instr, runCommand, sendCommand, transmit_ok h]

/-- 41_command_encoder.md R133: the n-th byte write fails. -/
theorem exec_instr_err {p : PanelCmd} {s : State} {n : Nat} (h : s.env.failsAt n)
    (hn : n < (commandOf s.cfg s.fb p).payload.length + 1) :
    exec p.instr s = .next (s.cut (commandOf s.cfg s.fb p) n).takeBusFault := by
  simp only [exec_instr, runCommand, sendCommand, transmit_err h hn]

/-- Settles O17: `exec_instr_ok` for each command, with the length of its payload. -/
theorem panelCommandsComplete : Obligations.PanelCommandsComplete := by
  intro s n h
  have hplane (bit : Color → Bool) (hn : (s.cfg.width + 7) / 8 * s.cfg.height = n) :
      (plane s.cfg bit s.fb).length = n := (length_plane s.cfg bit s.fb).trans hn
  refine ⟨fun hn => ?_, fun hn => ?_, fun hn => ?_, fun hn => ?_, fun hn => ?_, fun hn => ?_⟩
  · exact exec_instr_ok (p := .setResolution) (hn.symm ▸ h)
  · exact exec_instr_ok (p := .loadWaveformTable) (hn.symm ▸ h)
  · exact exec_instr_ok (p := .dataBlack) ((hplane blackBit hn).symm ▸ h)
  · exact exec_instr_ok (p := .dataAccent) ((hplane accentBit hn).symm ▸ h)
  · exact exec_instr_ok (p := .refresh) (hn.symm ▸ h)
  · exact exec_instr_ok (p := .powerDown) (hn.symm ▸ h)

/-- Settles O18: the transaction is cut at the failing byte, and `bus_fault` is the next line. -/
theorem busErrorEndsACommand : Obligations.BusErrorEndsACommand := by
  intro s p n h hn u
  rw [exec_instr_err h hn, takeBusFault_cut]

/-! ### The bounds of the waits -/

/-- Settles O24: a wait that ended Ok found the panel idle at a sample within the bound. -/
theorem elapsedWithinTheBound : Obligations.ElapsedWithinTheBound := by
  intro s u bound e hwf h
  obtain ⟨hpoll, -⟩ := Config.wf_wait_init hwf
  rcases s.env.idle_or_busy s.cfg (pollCount s.cfg bound.toNat) with ⟨j, hj, hidle⟩ | hbusy
  · rw [waitReady_idle hpoll hidle hj] at h
    cases h
    have hle : j * s.cfg.pollDelayUs ≤ bound.toNat := (Nat.le_div_iff_mul_le hpoll).1 hj
    rw [BitVec.toNat_ofNat, Nat.mod_eq_of_lt (Nat.lt_of_le_of_lt hle bound.isLt)]
    exact ⟨hle, Nat.dvd_mul_left _ j⟩
  · rw [waitReady_busy hpoll hbusy] at h
    cases h

/-- 00_scope.md R6: the bound of UPDATE's wait is a 32-bit value. -/
theorem Config.wf_wait_refresh {c : Config} (h : c.wf = true) :
    (durationWord c.refreshTimeoutUs).toNat = c.refreshTimeoutUs := by
  simp only [Config.wf, Config.durationsOk, Bool.and_eq_true, decide_eq_true_eq] at h
  obtain ⟨⟨⟨-, ⟨-, hrefresh⟩, -⟩, -⟩, -⟩ := h
  exact Nat.mod_eq_of_lt (by omega)

/-! ### Chains whose byte writes all succeed -/

theorem Env.busOk_add {e : Env} {n m : Nat} : e.busOk (n + m) ↔ e.busOk n ∧ (e.dropBus n).busOk m := by
  simp only [Env.busOk, Env.busAt_dropBus]
  refine ⟨fun h => ⟨fun k hk => h k (by omega), fun k hk => h _ (by omega)⟩, fun ⟨h1, h2⟩ k hk => ?_⟩
  rcases Nat.lt_or_ge k n with hlt | hge
  · exact h1 k hlt
  · rw [← Nat.add_sub_cancel' hge]
    exact h2 _ (by omega)

/-- The first link of a chain whose byte writes all succeed: what is left is the rest of the chain. -/
theorem commandThen_of_busOk {p : PanelCmd} {rest : State → State} {s t : State} {cmds : List Command}
    (h : s.env.busOk (wireLength (commandOf s.cfg s.fb p :: cmds)))
    (hrest : (s.sent (commandOf s.cfg s.fb p)).env.busOk (wireLength cmds) →
      rest (s.sent (commandOf s.cfg s.fb p)) = t) :
    commandThen p rest s = t := by
  obtain ⟨hfirst, htail⟩ := Env.busOk_add.1 h
  rw [commandThen_ok rest hfirst, hrest htail]

/-- `s` after the whole transactions of `cmds`, one after another. -/
def State.sentAll (s : State) (cmds : List Command) : State := cmds.foldl State.sent s

theorem initBody_ok {s t : State} {e : Word}
    (h : waitReady (durationWord s.cfg.initTimeoutUs) (resetPulse s) = (.ok e, t))
    (hbus : t.env.busOk (wireLength (initCommands t.cfg))) :
    initBody s = initEnd e (t.sentAll (initCommands t.cfg)) := by
  rw [initBody_of_ready h]
  exact commandThen_of_busOk hbus fun h2 => commandThen_of_busOk h2 fun _ => rfl

theorem updateBody_ok {s : State} (hbus : s.env.busOk (wireLength (updateCommands s.cfg s.fb))) :
    updateBody s = updateEnd (s.sentAll (updateCommands s.cfg s.fb)) :=
  commandThen_of_busOk hbus fun h2 => commandThen_of_busOk h2 fun h3 => commandThen_of_busOk h3 fun _ => rfl

theorem powerOffBody_ok {s : State} (hbus : s.env.busOk (wireLength (powerOffCommands s.cfg))) :
    powerOffBody s = { s.sentAll (powerOffCommands s.cfg) with state := .poweredDown }.respond .ok 0 :=
  commandThen_of_busOk hbus fun _ => rfl

/-! ### The configured waits -/

/-- 42_busy_gate.md R153 with a configured bound, the panel idle first at sample `j` within it. -/
theorem waitReady_duration_idle {s : State} {us j : Nat} (hp : 1 ≤ s.cfg.pollDelayUs)
    (hus : (durationWord us).toNat = us) (hidle : s.env.idleAt s.cfg j) (hj : j ≤ pollCount s.cfg us) :
    waitReady (durationWord us) s
      = (.ok (BitVec.ofNat 32 (j * s.cfg.pollDelayUs)), s.polled (j + 1) (readyEvents s.cfg j)) :=
  waitReady_idle hp hidle (hus.symm ▸ hj)

/-- 42_busy_gate.md R153 with a configured bound, the panel busy at every sample within it. -/
theorem waitReady_duration_busy {s : State} {us : Nat} (hp : 1 ≤ s.cfg.pollDelayUs)
    (hus : (durationWord us).toNat = us) (hbusy : s.env.busyFor s.cfg (pollCount s.cfg us + 1)) :
    waitReady (durationWord us) s
      = (.timedOut, s.polled (pollCount s.cfg us + 1) (timeoutEvents s.cfg (pollCount s.cfg us))) := by
  have h := waitReady_busy (bound := durationWord us) hp (hus.symm ▸ hbusy)
  rwa [hus] at h

/-- INIT's second wait, after its commands. -/
theorem initEnd_idle {s : State} {e : Word} {j : Nat} (hwf : s.cfg.wf = true) (hidle : s.env.idleAt s.cfg j)
    (hj : j ≤ pollCount s.cfg s.cfg.initTimeoutUs) :
    initEnd e s = { s.polled (j + 1) (readyEvents s.cfg j) with state := .ready }.respond .ok
      (e + BitVec.ofNat 32 (j * s.cfg.pollDelayUs)) := by
  obtain ⟨hpoll, hbound⟩ := Config.wf_wait_init hwf
  simp only [initEnd, waitReady_duration_idle hpoll hbound hidle hj]

theorem initEnd_busy {s : State} {e : Word} (hwf : s.cfg.wf = true)
    (hbusy : s.env.busyFor s.cfg (pollCount s.cfg s.cfg.initTimeoutUs + 1)) :
    initEnd e s = (s.polled (pollCount s.cfg s.cfg.initTimeoutUs + 1)
      (timeoutEvents s.cfg (pollCount s.cfg s.cfg.initTimeoutUs))).takeTimeout .configTimeout := by
  obtain ⟨hpoll, hbound⟩ := Config.wf_wait_init hwf
  simp only [initEnd, waitReady_duration_busy hpoll hbound hbusy]

/-- UPDATE's wait, after its commands. -/
theorem updateEnd_idle {s : State} {j : Nat} (hwf : s.cfg.wf = true) (hidle : s.env.idleAt s.cfg j)
    (hj : j ≤ pollCount s.cfg s.cfg.refreshTimeoutUs) :
    updateEnd s = { s.polled (j + 1) (readyEvents s.cfg j) with state := .ready }.respond .ok
      (BitVec.ofNat 32 (j * s.cfg.pollDelayUs)) := by
  obtain ⟨hpoll, -⟩ := Config.wf_wait_init hwf
  have h := waitReady_duration_idle (s := { s with state := .refreshing }) hpoll (Config.wf_wait_refresh hwf) hidle hj
  simp only [updateEnd, h]
  rfl

theorem updateEnd_busy {s : State} (hwf : s.cfg.wf = true)
    (hbusy : s.env.busyFor s.cfg (pollCount s.cfg s.cfg.refreshTimeoutUs + 1)) :
    updateEnd s = (s.polled (pollCount s.cfg s.cfg.refreshTimeoutUs + 1)
      (timeoutEvents s.cfg (pollCount s.cfg s.cfg.refreshTimeoutUs))).takeTimeout .refreshTimeout := by
  obtain ⟨hpoll, -⟩ := Config.wf_wait_init hwf
  have h := waitReady_duration_busy (s := { s with state := .refreshing }) hpoll (Config.wf_wait_refresh hwf) hbusy
  simp only [updateEnd, h]
  rfl

/-! ### The obligations -/

theorem exec_init_admitted {s : State} (h : s.state = .uninitialized) : exec .init s = .next (initBody s) := if_pos h

theorem exec_update_admitted {s : State} (h : s.state = .ready) : exec .update s = .next (updateBody s) := if_pos h

theorem exec_powerOff_admitted {s : State} (h : s.state = .ready) : exec .powerOff s = .next (powerOffBody s) :=
  if_pos h

/-- The state after INIT's pulse, first wait and commands. -/
theorem initCommands_sentAll (s : State) (n : Nat) (es : List Event) :
    ((resetPulse s).polled n es).sentAll (initCommands s.cfg) =
      { s with
        cs := csIdle s.cfg
        rst := rstIdle s.cfg
        dc := dcAfter s.cfg ⟨s.cfg.opLoadWaveform, s.cfg.waveformTable⟩
        env := (s.env.dropBus (wireLength (initCommands s.cfg))).dropBusy n
        trace := s.trace ++ (pulseEvents s.cfg ++ es ++ allEvents s.cfg (initCommands s.cfg)) } := by
  simp [State.sentAll, initCommands, State.polled, resetPulse_eq, State.sent, wireLength, allEvents,
    Env.dropBusy_dropBus]

/-- The state after UPDATE's commands. -/
theorem updateCommands_sentAll (s : State) :
    s.sentAll (updateCommands s.cfg s.fb) =
      { s with
        cs := csIdle s.cfg
        dc := dcAfter s.cfg ⟨s.cfg.opRefresh, s.cfg.payloadRefresh⟩
        env := s.env.dropBus (wireLength (updateCommands s.cfg s.fb))
        trace := s.trace ++ allEvents s.cfg (updateCommands s.cfg s.fb) } := by
  simp [State.sentAll, updateCommands, State.sent, wireLength, allEvents, Nat.add_assoc]

/-- Settles O25: pulse and first wait (`waitReady_resetPulse`), the two commands (`initBody_ok`), the second wait
(`initEnd_idle`). -/
theorem initReachesReady : Obligations.InitReachesReady := by
  intro s j k hwf hst hidle hj hidle' hk hbus u
  have hsent := initBody_ok (waitReady_resetPulse hwf hidle hj) hbus
  have hend := initEnd_idle (e := BitVec.ofNat 32 (j * s.cfg.pollDelayUs))
    (s := ((resetPulse s).polled (j + 1) (readyEvents s.cfg j)).sentAll (initCommands s.cfg)) hwf hidle' hk
  rw [exec_init_admitted hst]
  refine congrArg _ (hsent.trans (hend.trans ?_))
  rw [initCommands_sentAll]
  simp [u, State.finished, State.polled, respond_eq_finished, Env.dropBusy_dropBus, Nat.add_mul,
    BitVec.ofNat_add]

/-- Settles O26: the first wait is busy throughout, or it ends and the second one is. -/
theorem initTimeouts : Obligations.InitTimeouts := by
  intro s hwf hst n
  obtain ⟨hpoll, hbound⟩ := Config.wf_wait_init hwf
  refine ⟨fun hbusy => ?_, fun j hidle hj hbusy hbus => ?_⟩ <;> dsimp only
  · have hwait := waitReady_duration_busy (s := resetPulse s) hpoll hbound hbusy
    rw [exec_init_admitted hst, initBody, hwait, resetPulse_eq]
    simp [n, State.takeTimeout, State.takeFault, respond_eq_finished, State.finished, State.polled]
    rfl
  · have hsent := initBody_ok (waitReady_resetPulse hwf hidle hj) hbus
    have hend := initEnd_busy (e := BitVec.ofNat 32 (j * s.cfg.pollDelayUs))
      (s := ((resetPulse s).polled (j + 1) (readyEvents s.cfg j)).sentAll (initCommands s.cfg)) hwf hbusy
    rw [exec_init_admitted hst]
    refine congrArg _ (hsent.trans (hend.trans ?_))
    rw [initCommands_sentAll]
    simp [n, State.takeTimeout, State.takeFault, respond_eq_finished, State.finished, State.polled,
      Env.dropBusy_dropBus]
    rfl

/-- Settles O27: the three commands (`updateBody_ok`), then the wait (`updateEnd_idle`). -/
theorem updateRefreshesThePanel : Obligations.UpdateRefreshesThePanel := by
  intro s j hwf hst hidle hj hbus u
  have hend := updateEnd_idle (s := s.sentAll (updateCommands s.cfg s.fb)) hwf hidle hj
  rw [exec_update_admitted hst]
  refine congrArg _ ((updateBody_ok hbus).trans (hend.trans ?_))
  rw [updateCommands_sentAll]
  simp [u, State.finished, State.polled, respond_eq_finished, Env.dropBusy_dropBus]

/-- Settles O28: the three commands (`updateBody_ok`), then the wait (`updateEnd_busy`). -/
theorem updateTimesOut : Obligations.UpdateTimesOut := by
  intro s hwf hst n hbusy hbus u
  have hend := updateEnd_busy (s := s.sentAll (updateCommands s.cfg s.fb)) hwf hbusy
  rw [exec_update_admitted hst]
  refine congrArg _ ((updateBody_ok hbus).trans (hend.trans ?_))
  rw [updateCommands_sentAll]
  simp [u, n, State.takeTimeout, State.takeFault, respond_eq_finished, State.finished, State.polled,
    Env.dropBusy_dropBus]
  rfl

/-- Settles O29: one command, then the response. -/
theorem powerOffPowersDown : Obligations.PowerOffPowersDown := by
  intro s hst hbus u
  rw [exec_powerOff_admitted hst, powerOffBody_ok hbus]
  simp [u, State.sentAll, powerOffCommands, State.sent, respond_eq_finished, State.finished, wireLength, allEvents]

end Sys2Proof.Machine
end

section
/-! PROOFS of the family 'other', what an operation does as seen from outside (41_command_encoder.md section 4;
30_encoding.md R84; 43_display_protocol.md R160): `Framed` is closed under composition, every call of the model is
framed, and `exec_performs` says of every host operation that it is framed and answered. -/

namespace Sys2Proof.Machine

/-! ### The moves of STATE -/

/-- The moves of STATE and FAULT_REASON one step makes, the block reset apart (43_display_protocol.md R160). -/
inductive Move : PanelState → FaultReason → PanelState → FaultReason → Prop
  | stay (p : PanelState) (r : FaultReason) : Move p r p r
  | initDone (r : FaultReason) : Move .uninitialized r .ready r
  | refreshStart (r : FaultReason) : Move .ready r .refreshing r
  | refreshDone (r : FaultReason) : Move .refreshing r .ready r
  | powerDown (r : FaultReason) : Move .ready r .poweredDown r
  | initFault (r : FaultReason) {r' : FaultReason} (h : r' = .resetTimeout ∨ r' = .configTimeout ∨ r' = .busFault) :
      Move .uninitialized r .faulted r'
  | readyFault (r : FaultReason) {r' : FaultReason} (h : r' = .refreshTimeout ∨ r' = .busFault) :
      Move .ready r .faulted r'
  | refreshFault (r : FaultReason) : Move .refreshing r .faulted .refreshTimeout

/-- A move that leaves FAULT_REASON alone. -/
theorem Move.of_eq {p p' : PanelState} {r r' : FaultReason} (hp : p' = p) (hr : r' = r) : Move p r p' r' :=
  hp ▸ hr ▸ .stay _ _

theorem Move.allowed {s t : State} (h : Move s.state s.faultReason t.state t.faultReason) : allowedMove s t := by
  unfold allowedMove
  generalize s.state = p, s.faultReason = r, t.state = p', t.faultReason = r' at h
  cases h with
  | stay => simp
  | initDone => simp
  | refreshStart => simp
  | refreshDone => simp
  | powerDown => simp
  | initFault _ h => simp [h]
  | readyFault _ h => simp [h]
  | refreshFault => simp

/-- 10_state.md R25: a move keeps FAULT_REASON set in Faulted and only there. -/
theorem Move.reason {p p' : PanelState} {r r' : FaultReason} (h : Move p r p' r') (hr : r ≠ .none ↔ p = .faulted) :
    r' ≠ .none ↔ p' = .faulted := by
  cases h with
  | stay => exact hr
  | initDone => simpa using hr
  | refreshStart => simpa using hr
  | refreshDone => simpa using hr
  | powerDown => simpa using hr
  | initFault _ h => rcases h with rfl | rfl | rfl <;> simp
  | readyFault _ h => rcases h with rfl | rfl <;> simp
  | refreshFault => simp

/-! ### Framed runs -/

/-- A run that begins and ends with CS deasserted: its events keep the framing discipline (41_command_encoder.md R140),
send the opcodes `ops` and write the levels `pulse` to RESET; CS and RESET at rest are at rest again at the end. -/
structure Framed (s t : State) (es : List Event) (ops : List Byte) (pulse : List Level) : Prop extends Ran s t es where
  framing : Framing.run s.cfg .deselected s.dc es = some (.deselected, t.dc)
  opcodes : commandBytes s.cfg s.dc s.cs es = ops
  pulse   : resetHistory es = pulse
  csRest  : s.cs = csIdle s.cfg → t.cs = csIdle s.cfg
  rstRest : s.rst = rstIdle s.cfg → t.rst = rstIdle s.cfg

theorem Framed.trans {s t u : State} {es fs : List Event} {ops ops' : List Byte} {pulse pulse' : List Level}
    (h : Framed s t es ops pulse) (h' : Framed t u fs ops' pulse') :
    Framed s u (es ++ fs) (ops ++ ops') (pulse ++ pulse') where
  toRan := h.toRan.trans h'.toRan
  framing := by rw [Framing.run_append, h.framing, ← h.cfg]; exact h'.framing
  opcodes := by rw [commandBytes_append, h.opcodes, ← h.dc, ← h.cs, ← h.cfg, h'.opcodes]
  pulse := by rw [resetHistory_append, h.pulse, h'.pulse]
  csRest hs := h.cfg ▸ h'.csRest (h.cfg.symm ▸ h.csRest hs)
  rstRest hs := h.cfg ▸ h'.rstRest (h.cfg.symm ▸ h.rstRest hs)

theorem commandBytes_quiet {es : List Event} (h : ∀ e ∈ es, e.isQuiet = true) (c : Config) (dc cs : Level) :
    commandBytes c dc cs es = [] := by
  rw [commandBytes, panelBytes_quiet h]
  rfl

/-- Samples, delays and responses. -/
theorem Ran.framed {s t : State} {es : List Event} (h : Ran s t es) (hq : ∀ e ∈ es, e.isQuiet = true) :
    Framed s t es [] [] where
  toRan := h
  framing := by rw [run_quiet _ hq, h.dc, lineAfter_quiet _ hq]
  opcodes := commandBytes_quiet hq _ _ _
  pulse := resetHistory_quiet hq
  csRest hs := by rw [h.cs, lineAfter_quiet _ hq, hs]
  rstRest hs := by rw [h.rst, lineAfter_quiet _ hq, hs]

/-- A write of registers that are no line. -/
theorem Ran.framed_nil {s t : State} (h : Ran s t []) : Framed s t [] [] [] := h.framed (by simp)

theorem framed_sent (s : State) (cmd : Command) : Framed s (s.sent cmd) (transmitEvents s.cfg cmd) [cmd.opcode] [] where
  toRan := ran_sent s cmd
  framing := run_transmitEvents _ _ _
  opcodes := commandBytes_transmitEvents _ _ _ _
  pulse := resetHistory_transmitEvents _ _
  csRest _ := rfl
  rstRest hs := hs

theorem framed_resetPulse (s : State) :
    Framed s (resetPulse s) (pulseEvents s.cfg) [] [s.cfg.rstAssertLevel, rstIdle s.cfg] where
  toRan := by
    rw [resetPulse_eq]
    exact ⟨rfl, rfl, rfl, rfl, rfl, rfl, rfl⟩
  framing := rfl
  opcodes := rfl
  pulse := rfl
  csRest hs := hs
  rstRest _ := rfl

/-! ### Segments: the part of an operation before its response -/

/-- A framed run of hardware events that leaves FAULT_REASON and the store. -/
structure Segment (s t : State) (es : List Event) (ops : List Byte) (pulse : List Level) : Prop
    extends Framed s t es ops pulse where
  hardware : ∀ e ∈ es, e.isHardware = true
  reason   : t.faultReason = s.faultReason
  fb       : t.fb = s.fb

theorem Segment.trans {s t u : State} {es fs : List Event} {ops ops' : List Byte} {pulse pulse' : List Level}
    (h : Segment s t es ops pulse) (h' : Segment t u fs ops' pulse') :
    Segment s u (es ++ fs) (ops ++ ops') (pulse ++ pulse') where
  toFramed := h.toFramed.trans h'.toFramed
  hardware := List.forall_mem_append.2 ⟨h.hardware, h'.hardware⟩
  reason := h'.reason.trans h.reason
  fb := h'.fb.trans h.fb

theorem Segment.refl (s : State) : Segment s s [] [] [] where
  toFramed := (Ran.refl s).framed (by simp)
  hardware := by simp
  reason := rfl
  fb := rfl

theorem segment_resetPulse (s : State) :
    Segment s (resetPulse s) (pulseEvents s.cfg) [] [s.cfg.rstAssertLevel, rstIdle s.cfg] where
  toFramed := framed_resetPulse s
  hardware := by simp [pulseEvents, Event.isHardware]
  reason := rfl
  fb := rfl

theorem sentEvents_hardware (c : Config) (cmd : Command) (n : Nat) : ∀ e ∈ sentEvents c cmd n, e.isHardware = true := by
  rcases n with _ | _ | n <;> simp [sentEvents, Event.isHardware, -List.map_take]

theorem segment_sent (s : State) (cmd : Command) : Segment s (s.sent cmd) (transmitEvents s.cfg cmd) [cmd.opcode] [] where
  toFramed := framed_sent s cmd
  hardware := List.forall_mem_append.2 ⟨sentEvents_hardware _ _ _, by simp [Event.isHardware]⟩
  reason := rfl
  fb := rfl

/-- A segment goes on with a wait (42_busy_gate.md R156). -/
theorem Segment.waitReady {s t u : State} {es : List Event} {ops : List Byte} {pulse : List Level} {bound : Word}
    {res : WaitResult} (h : Segment s t es ops pulse) (hw : waitReady bound t = (res, u)) :
    u.state = t.state ∧ ∃ fs, Segment s u fs ops pulse := by
  obtain ⟨n, es', hpolled, hes⟩ := waitReady_shape bound t
  have hquiet : ∀ e ∈ es', e.isQuiet = true := fun e he => by
    rcases hes e he with ⟨v, rfl⟩ | ⟨d, rfl⟩ <;> rfl
  have hhardware : ∀ e ∈ es', e.isHardware = true := fun e he => by
    rcases hes e he with ⟨v, rfl⟩ | ⟨d, rfl⟩ <;> rfl
  obtain rfl : u = t.polled n es' := by rw [← hpolled, hw]
  have hwait : Segment t (t.polled n es') es' [] [] := ⟨(ran_polled t n hquiet).framed hquiet, hhardware, rfl, rfl⟩
  exact ⟨rfl, _, by simpa using h.trans hwait⟩

/-- A segment goes on with a transaction. -/
theorem Segment.sent {s t : State} {es : List Event} {ops : List Byte} {pulse : List Level} {cmd : Command} {b : Byte}
    (h : Segment s t es ops pulse) (hb : cmd.opcode = b) :
    Segment s (t.sent cmd) (es ++ transmitEvents t.cfg cmd) (ops ++ [b]) pulse := by
  simpa [hb] using h.trans (segment_sent t cmd)

/-- A segment goes on with a write of STATE. -/
theorem Segment.withState {s t : State} {es : List Event} {ops : List Byte} {pulse : List Level}
    (h : Segment s t es ops pulse) (p : PanelState) : Segment s { t with state := p } es ops pulse := by
  have hwrite : Segment t { t with state := p } [] [] [] :=
    ⟨Ran.framed_nil ⟨by simp, rfl, rfl, rfl, rfl, rfl, rfl⟩, by simp, rfl, rfl⟩
  simpa using h.trans hwrite

/-! ### A cut transaction is a whole transaction of fewer bytes -/

/-- The command of the bytes a cut transaction sent (41_command_encoder.md R133). -/
def Command.cutAt (cmd : Command) (k : Nat) : Command := { cmd with payload := cmd.payload.take k }

theorem takeBusFault_cut_eq_sent (s : State) {cmd : Command} {k : Nat} (hk : k < cmd.payload.length + 1) :
    (s.cut cmd k).takeBusFault = (s.sent (cmd.cutAt k)).takeFault .busFault .busFault 0 := by
  have hlen : (cmd.payload.take k).length = k := List.length_take_of_le (by omega)
  have hclosed : (s.cut cmd k).setLine .cs (csIdle s.cfg) = s.sent (cmd.cutAt k) := by
    rcases k with _ | k
    · simp [State.setLine, State.cut, State.sent, Command.cutAt, transmitEvents, sentEvents, dcAfter]
    · have hne : cmd.payload ≠ [] := fun h => by simp [h] at hk
      simp [State.setLine, State.cut, State.sent, Command.cutAt, transmitEvents, sentEvents, dcAfter, hlen, hne,
        List.take_take, -List.length_take, -List.map_take]
  rw [← hclosed]
  rfl

/-! ### Answered operations -/

/-- `t` is `s` after an operation that emitted `es`: hardware events, then one response; the block is idle again. -/
structure Answers (s t : State) (es : List Event) (ops : List Byte) (pulse : List Level) : Prop
    extends Framed s t es ops pulse where
  response      : ∃ hw st d, es = hw ++ [.rsp st d] ∧ ∀ e ∈ hw, e.isHardware = true
  move          : Move s.state s.faultReason t.state t.faultReason
  notRefreshing : s.state ≠ .refreshing → t.state ≠ .refreshing
  busyFlag      : t.busyFlag = false
  phase         : t.phase = .idle
  scratch       : t.scratchEmpty
  fbWf          : Memory.wf (cellCount s.cfg) s.fb → Memory.wf (cellCount s.cfg) t.fb

/-- `u` with STATE, FAULT_REASON and the store of the operation's last lines, then the response. -/
def State.closed (u : State) (p : PanelState) (r : FaultReason) (m : Memory) (st : Status) (d : Word) : State :=
  { u with state := p, faultReason := r, fb := m }.respond st d

theorem framed_closed (u : State) (p : PanelState) (r : FaultReason) (m : Memory) (st : Status) (d : Word) :
    Framed u (u.closed p r m st d) [.rsp st d] [] [] :=
  Ran.framed ⟨rfl, rfl, rfl, rfl, rfl, rfl, rfl⟩ (by simp [Event.isQuiet])

/-- The one way an operation ends. -/
theorem Segment.answers {s u : State} {es : List Event} {ops : List Byte} {pulse : List Level} {p : PanelState}
    {r : FaultReason} {m : Memory} (st : Status) (d : Word) (h : Segment s u es ops pulse)
    (hmove : Move s.state s.faultReason p r) (hp : s.state ≠ .refreshing → p ≠ .refreshing)
    (hm : Memory.wf (cellCount s.cfg) s.fb → Memory.wf (cellCount s.cfg) m) :
    Answers s (u.closed p r m st d) (es ++ [.rsp st d]) ops pulse where
  toFramed := by simpa using h.toFramed.trans (framed_closed u p r m st d)
  response := ⟨es, st, d, rfl, h.hardware⟩
  move := hmove
  notRefreshing := hp
  busyFlag := rfl
  phase := rfl
  scratch := ⟨rfl, rfl, rfl, rfl, rfl, rfl, rfl⟩
  fbWf := hm

/-- The RESET levels an operation writes (43_display_protocol.md R167). -/
def pulseOf (i : Instr) (s : State) : List Level :=
  if i = .init ∧ s.state = .uninitialized then [s.cfg.rstAssertLevel, rstIdle s.cfg] else []

/-- Everything a host operation does: it is answered, sends opcodes of its own list in order, all of them when it
succeeds, pulses RESET in an admitted INIT only, and leaves the store unless it is SET_PIXEL or CLEAR. -/
structure Performs (i : Instr) (s t : State) (es : List Event) (ops : List Byte) : Prop
    extends Answers s t es ops (pulseOf i s) where
  ordered  : ops <+: allowedOpcodes s.cfg i
  complete : reaches i s.state t.state → ops = allowedOpcodes s.cfg i
  store    : t.fb = s.fb ∨ (∃ x y col, i = .setPixel x y col) ∨ ∃ col, i = .clear col

/-! ### The operations on the pixel store and the host's wait -/

/-- An operation that sends no opcode. -/
theorem Answers.performs {i : Instr} {s t : State} {es : List Event} (h : Answers s t es [] [])
    (hops : allowedOpcodes s.cfg i = []) (hpulse : i ≠ .init)
    (hstore : t.fb = s.fb ∨ (∃ x y col, i = .setPixel x y col) ∨ ∃ col, i = .clear col) : Performs i s t es [] where
  toAnswers := by
    rw [pulseOf, if_neg fun hi => hpulse hi.1]
    exact h
  ordered := List.nil_prefix
  complete _ := hops.symm
  store := hstore

/-- A response and nothing else. -/
theorem answers_respond (st : Status) (d : Word) (s : State) : Answers s (s.respond st d) [.rsp st d] [] [] :=
  (Segment.refl s).answers st d (.stay _ _) id id

theorem answers_store (s : State) {m : Memory} (st : Status) (d : Word)
    (hm : Memory.wf (cellCount s.cfg) s.fb → Memory.wf (cellCount s.cfg) m) :
    Answers s ({ s with fb := m }.respond st d) [.rsp st d] [] [] :=
  (Segment.refl s).answers st d (.stay _ _) id hm

theorem execSetPixel_performs (x y : Coord) (col : Color) (s : State) :
    ∃ t es ops, exec (.setPixel x y col) s = .next t ∧ Performs (.setPixel x y col) s t es ops := by
  by_cases hb : inBounds s.cfg x y = true
  · exact ⟨_, _, _, exec_setPixel_inBounds col hb, (answers_store s .ok 0 fun hwf => setPixel_wf col hwf hb).performs
      rfl nofun (.inr (.inl ⟨_, _, _, rfl⟩))⟩
  · exact ⟨_, _, _, exec_setPixel_outOfBounds col hb, (answers_respond .outOfBounds 0 s).performs rfl nofun (.inl rfl)⟩

theorem execGetPixel_performs (x y : Coord) (s : State) :
    ∃ t es ops, exec (.getPixel x y) s = .next t ∧ Performs (.getPixel x y) s t es ops := by
  by_cases hb : inBounds s.cfg x y = true
  · exact ⟨_, _, _, exec_getPixel_inBounds hb, (answers_respond .ok _ s).performs rfl nofun (.inl rfl)⟩
  · exact ⟨_, _, _, exec_getPixel_outOfBounds hb, (answers_respond .outOfBounds 0 s).performs rfl nofun (.inl rfl)⟩

theorem execClear_performs (col : Color) (s : State) :
    ∃ t es ops, exec (.clear col) s = .next t ∧ Performs (.clear col) s t es ops :=
  ⟨_, _, _, exec_clear s col, (answers_store s .ok 0 fun _ => Memory.fill_wf _ col).performs rfl nofun
    (.inr (.inr ⟨_, rfl⟩))⟩

/-- A wait whose end leaves STATE and FAULT_REASON. -/
theorem Segment.answers_respond {s u : State} {es : List Event} {ops : List Byte} {pulse : List Level}
    (h : Segment s u es ops pulse) (hp : u.state = s.state) (st : Status) (d : Word) :
    Answers s (u.respond st d) (es ++ [.rsp st d]) ops pulse :=
  h.answers st d (.of_eq hp h.reason) (fun hs => hp ▸ hs) fun hm => h.fb ▸ hm

theorem execWaitReady_performs (bound : Word) (s : State) :
    ∃ t es ops, exec (.waitReady bound) s = .next t ∧ Performs (.waitReady bound) s t es ops := by
  simp only [exec, execWaitReady]
  rcases hw : waitReady bound s with ⟨e | _, u⟩ <;> obtain ⟨hstate, es, hseg⟩ := (Segment.refl s).waitReady hw
  · exact ⟨_, _, _, rfl, (hseg.answers_respond hstate .ok e).performs rfl nofun (.inl hseg.fb)⟩
  · exact ⟨_, _, _, rfl, (hseg.answers_respond hstate .timeout 0).performs rfl nofun (.inl hseg.fb)⟩

/-! ### The three protocol operations -/

theorem commandThen_cases (p : PanelCmd) (rest : State → State) (s : State) :
    commandThen p rest s = rest (s.sent (commandOf s.cfg s.fb p))
      ∨ ∃ k, commandThen p rest s = (s.sent ((commandOf s.cfg s.fb p).cutAt k)).takeFault .busFault .busFault 0 := by
  rcases s.env.ok_or_fails ((commandOf s.cfg s.fb p).payload.length + 1) with hok | ⟨k, hk, hfail⟩
  · exact .inl (commandThen_ok rest hok)
  · exact .inr ⟨k, by rw [commandThen_err rest hfail hk, takeBusFault_cut_eq_sent s hk]⟩

/-- A protocol operation that ends in Faulted, with the opcodes it has sent by then. -/
theorem Segment.performs_fault {i : Instr} {s u : State} {es : List Event} {ops : List Byte} {r : FaultReason}
    (st : Status) (d : Word) (h : Segment s u es ops (pulseOf i s)) (hmove : Move s.state s.faultReason .faulted r)
    (hops : ops <+: allowedOpcodes s.cfg i) (hi : ¬ reaches i s.state .faulted) :
    Performs i s (u.takeFault r st d) (es ++ [.rsp st d]) ops where
  toAnswers := h.answers st d hmove (fun _ => nofun) fun hm => h.fb ▸ hm
  ordered := hops
  complete hr := absurd hr hi
  store := .inl h.fb

/-- A protocol operation that ends in its success state, all its opcodes sent. -/
theorem Segment.performs_ok {i : Instr} {s u : State} {es : List Event} {p : PanelState} (d : Word)
    (h : Segment s u es (allowedOpcodes s.cfg i) (pulseOf i s)) (hmove : Move s.state s.faultReason p s.faultReason)
    (hp : p ≠ .refreshing) :
    Performs i s ({ u with state := p }.respond .ok d) (es ++ [.rsp .ok d]) (allowedOpcodes s.cfg i) where
  toAnswers := h.answers .ok d (h.reason ▸ hmove) (fun _ => hp) fun hm => h.fb ▸ hm
  ordered := List.prefix_rfl
  complete _ := rfl
  store := .inl h.fb

/-- One link of a protocol operation: bus_fault, or the rest of the chain. -/
theorem Segment.performs_commandThen {i : Instr} {s t : State} {es : List Event} {ops : List Byte} {p : PanelCmd}
    {rest : State → State} (h : Segment s t es ops (pulseOf i s))
    (hmove : Move s.state s.faultReason .faulted .busFault) (hi : ¬ reaches i s.state .faulted)
    (hops : ops ++ [s.cfg.opcode p] <+: allowedOpcodes s.cfg i)
    (hrest : ∀ u fs, u.state = t.state → Segment s u fs (ops ++ [s.cfg.opcode p]) (pulseOf i s) →
      ∃ es ops, Performs i s (rest u) es ops) :
    ∃ es ops, Performs i s (commandThen p rest t) es ops := by
  have hopcode : t.cfg.opcode p = s.cfg.opcode p := by rw [h.cfg]
  rcases commandThen_cases p rest t with hok | ⟨k, herr⟩
  · rw [hok]
    exact hrest _ _ rfl (h.sent hopcode)
  · rw [herr]
    have hcut := h.sent (cmd := (commandOf t.cfg t.fb p).cutAt k) hopcode
    exact ⟨_, _, hcut.performs_fault .busFault 0 hmove hops hi⟩

theorem initEnd_performs {s t : State} {es : List Event} (e : Word) (hs : s.state = .uninitialized)
    (h : Segment s t es (allowedOpcodes s.cfg .init) (pulseOf .init s)) :
    ∃ es ops, Performs .init s (initEnd e t) es ops := by
  rw [initEnd]
  rcases hw : waitReady (durationWord t.cfg.initTimeoutUs) t with ⟨e' | _, u⟩ <;> obtain ⟨-, fs, hseg⟩ := h.waitReady hw
  · exact ⟨_, _, hseg.performs_ok (e + e') (hs ▸ .initDone _) nofun⟩
  · exact ⟨_, _, hseg.performs_fault .timeout _ (hs ▸ .initFault _ (.inr (.inl rfl))) List.prefix_rfl nofun⟩

theorem updateEnd_performs {s t : State} {es : List Event} (hs : s.state = .ready)
    (h : Segment s t es (allowedOpcodes s.cfg .update) (pulseOf .update s)) :
    ∃ es ops, Performs .update s (updateEnd t) es ops := by
  rw [updateEnd]
  rcases hw : waitReady (durationWord t.cfg.refreshTimeoutUs) { t with state := .refreshing } with ⟨e | _, u⟩ <;>
    obtain ⟨-, fs, hseg⟩ := (h.withState .refreshing).waitReady hw
  · exact ⟨_, _, hseg.performs_ok e (hs ▸ .stay _ _) nofun⟩
  · exact ⟨_, _, hseg.performs_fault .timeout _ (hs ▸ .readyFault _ (.inl rfl)) List.prefix_rfl nofun⟩

theorem initBody_performs {s : State} (hs : s.state = .uninitialized) :
    ∃ es ops, Performs .init s (initBody s) es ops := by
  have hpulse : Segment s (resetPulse s) (pulseEvents s.cfg) [] (pulseOf .init s) := by
    rw [pulseOf, if_pos ⟨rfl, hs⟩]
    exact segment_resetPulse s
  rcases hw : waitReady (durationWord s.cfg.initTimeoutUs) (resetPulse s) with ⟨e | _, u⟩ <;>
    obtain ⟨-, es, hwait⟩ := hpulse.waitReady hw
  · have hfault : Move s.state s.faultReason .faulted .busFault := hs ▸ .initFault _ (.inr (.inr rfl))
    rw [initBody_of_ready hw]
    refine hwait.performs_commandThen hfault nofun ⟨[_], rfl⟩ fun u1 es1 _ h1 => ?_
    refine h1.performs_commandThen hfault nofun ⟨[], rfl⟩ fun u2 es2 _ h2 => ?_
    exact initEnd_performs e hs h2
  · simp only [initBody, hw]
    exact ⟨_, _, hwait.performs_fault .timeout _ (hs ▸ .initFault _ (.inl rfl)) List.nil_prefix nofun⟩

theorem updateBody_performs {s : State} (hs : s.state = .ready) : ∃ es ops, Performs .update s (updateBody s) es ops := by
  have hfault : Move s.state s.faultReason .faulted .busFault := hs ▸ .readyFault _ (.inr rfl)
  rw [updateBody_eq_chain]
  refine (Segment.refl s).performs_commandThen (i := .update) hfault nofun ⟨[_, _], rfl⟩ fun u1 es1 _ h1 => ?_
  refine h1.performs_commandThen hfault nofun ⟨[_], rfl⟩ fun u2 es2 _ h2 => ?_
  refine h2.performs_commandThen hfault nofun ⟨[], rfl⟩ fun u3 es3 _ h3 => ?_
  exact updateEnd_performs hs h3

theorem powerOffBody_performs {s : State} (hs : s.state = .ready) :
    ∃ es ops, Performs .powerOff s (powerOffBody s) es ops := by
  have hfault : Move s.state s.faultReason .faulted .busFault := hs ▸ .readyFault _ (.inr rfl)
  rw [powerOffBody_eq_chain]
  refine (Segment.refl s).performs_commandThen (i := .powerOff) hfault nofun ⟨[], rfl⟩ fun u1 es1 _ h1 => ?_
  exact ⟨_, _, h1.performs_ok 0 (hs ▸ .powerDown _) nofun⟩

theorem rejectState_performs {i : Instr} {s : State} {required : PanelState}
    (hi : ∀ p, reaches i s.state p → s.state = required) (hs : s.state ≠ required) (hpulse : pulseOf i s = []) :
    Performs i s (s.rejectState required)
      [.rsp .invalidState (invalidStateData required s.state s.faultReason)] [] where
  toAnswers := hpulse ▸ answers_respond .invalidState _ s
  ordered := List.nil_prefix
  complete h := absurd (hi _ h) hs
  store := .inl rfl

/-! ### Every host operation -/

/-- Everything a host operation can do, in every state. -/
theorem exec_performs {i : Instr} (hi : i.requestFields ≠ none) (s : State) :
    ∃ t es ops, exec i s = .next t ∧ Performs i s t es ops := by
  cases i
  case init =>
    by_cases hs : s.state = .uninitialized
    · obtain ⟨es, ops, h⟩ := initBody_performs hs
      exact ⟨_, es, ops, exec_init_admitted hs, h⟩
    · have hreject : Performs .init s (s.rejectState .uninitialized) _ _ :=
        rejectState_performs (fun _ h => h.1) hs (if_neg fun h => hs h.2)
      exact ⟨_, _, _, exec_init_rejected hs, hreject⟩
  case update =>
    by_cases hs : s.state = .ready
    · obtain ⟨es, ops, h⟩ := updateBody_performs hs
      exact ⟨_, es, ops, exec_update_admitted hs, h⟩
    · have hreject : Performs .update s (s.rejectState .ready) _ _ := rejectState_performs (fun _ h => h.1) hs rfl
      exact ⟨_, _, _, exec_update_rejected hs, hreject⟩
  case powerOff =>
    by_cases hs : s.state = .ready
    · obtain ⟨es, ops, h⟩ := powerOffBody_performs hs
      exact ⟨_, es, ops, exec_powerOff_admitted hs, h⟩
    · have hreject : Performs .powerOff s (s.rejectState .ready) _ _ := rejectState_performs (fun _ h => h.1) hs rfl
      exact ⟨_, _, _, exec_powerOff_rejected hs, hreject⟩
  case setPixel x y col => exact execSetPixel_performs x y col s
  case getPixel x y => exact execGetPixel_performs x y s
  case clear col => exact execClear_performs col s
  case waitReady t => exact execWaitReady_performs t s
  all_goals exact absurd rfl hi

/-! ### Panel commands -/

/-- Every operation is a host operation or a panel command. -/
theorem Instr.host_or_command (i : Instr) : i.requestFields ≠ none ∨ ∃ p : PanelCmd, i = p.instr := by
  cases i
  case setResolution => exact .inr ⟨.setResolution, rfl⟩
  case loadWaveformTable => exact .inr ⟨.loadWaveformTable, rfl⟩
  case beginDataTransferBlack => exact .inr ⟨.dataBlack, rfl⟩
  case beginDataTransferAccent => exact .inr ⟨.dataAccent, rfl⟩
  case refresh => exact .inr ⟨.refresh, rfl⟩
  case powerDown => exact .inr ⟨.powerDown, rfl⟩
  all_goals exact .inl nofun

/-- Everything a panel command can do: its transaction and the move to the next position, or bus_fault. -/
theorem exec_instr_cases (p : PanelCmd) (s : State) :
    exec p.instr s = .next { (s.sent (commandOf s.cfg s.fb p)).clearCommand with phase := phaseAfter p }
      ∨ ∃ k, exec p.instr s
          = .next ((s.sent ((commandOf s.cfg s.fb p).cutAt k)).takeFault .busFault .busFault 0) := by
  rcases s.env.ok_or_fails ((commandOf s.cfg s.fb p).payload.length + 1) with hok | ⟨k, hk, hfail⟩
  · exact .inl (exec_instr_ok hok)
  · exact .inr ⟨k, by rw [exec_instr_err hfail hk, takeBusFault_cut_eq_sent s hk]⟩

theorem exec_instr_framed {p : PanelCmd} {s t : State} (h : exec p.instr s = .next t) :
    ∃ es, Framed s t es [s.cfg.opcode p] [] ∧ t.fb = s.fb := by
  rcases exec_instr_cases p s with hok | ⟨k, herr⟩
  · cases hok.symm.trans h
    have hmove : Framed (s.sent (commandOf s.cfg s.fb p))
        { (s.sent (commandOf s.cfg s.fb p)).clearCommand with phase := phaseAfter p } [] [] [] :=
      Ran.framed_nil ⟨by simp, rfl, rfl, rfl, rfl, rfl, rfl⟩
    exact ⟨_, (framed_sent s _).trans hmove, rfl⟩
  · cases herr.symm.trans h
    exact ⟨_, (framed_sent s ((commandOf s.cfg s.fb p).cutAt k)).trans
      ((ran_takeFault .busFault .busFault 0 _).framed (by simp [Event.isQuiet])), rfl⟩

/-! ### Obligations on the events of an operation -/

theorem allowedOpcodes_instr (c : Config) (p : PanelCmd) : allowedOpcodes c p.instr = [c.opcode p] := by
  cases p <;> rfl

/-- Settles O20: a host operation by `exec_performs`; a panel command, cut or whole, sends its one opcode. -/
theorem commandOrderOfTheOperations : Obligations.CommandOrderOfTheOperations := by
  intro s t i h
  rcases Instr.host_or_command i with hi | ⟨p, rfl⟩
  · obtain ⟨t', es, ops, hexec, hperf⟩ := exec_performs hi s
    cases hexec.symm.trans h
    exact ⟨es, hperf.trace, hperf.opcodes ▸ hperf.ordered, fun hr => hperf.opcodes ▸ hperf.complete hr⟩
  · obtain ⟨es, hframed, -⟩ := exec_instr_framed h
    have hops : commandBytes s.cfg s.dc s.cs es = allowedOpcodes s.cfg p.instr := by
      rw [hframed.opcodes, allowedOpcodes_instr]
    exact ⟨es, hframed.trace, hops ▸ List.prefix_rfl, fun _ => hops⟩

/-- Settles O35: the RESET levels are `pulseOf` for a host operation and none for a panel command. -/
theorem resetPulseOnlyInInit : Obligations.ResetPulseOnlyInInit := by
  intro s t i h
  rcases Instr.host_or_command i with hi | ⟨p, rfl⟩
  · obtain ⟨t', es, ops, hexec, hperf⟩ := exec_performs hi s
    cases hexec.symm.trans h
    exact ⟨es, hperf.trace, hperf.pulse⟩
  · obtain ⟨es, hframed, -⟩ := exec_instr_framed h
    have hinit : ¬ (p.instr = .init ∧ s.state = .uninitialized) := fun hp => by cases p <;> cases hp.1
    exact ⟨es, hframed.trace, by rw [if_neg hinit, hframed.pulse]⟩

/-! ### The bytes of an UPDATE -/

theorem countP_isBus_quiet {es : List Event} (h : ∀ e ∈ es, e.isQuiet = true) : es.countP Event.isBus = 0 := by
  refine List.countP_eq_zero.2 fun e he => ?_
  have hq := h e he
  cases e <;> simp_all [Event.isQuiet, Event.isBus]

theorem countP_isBus_transmitEvents (c : Config) (cmd : Command) :
    (transmitEvents c cmd).countP Event.isBus = cmd.payload.length + 1 := by
  obtain ⟨op, pl⟩ := cmd
  rcases pl with _ | ⟨b, bs⟩
  · simp [transmitEvents, sentEvents, Event.isBus, List.countP_cons]
  · simp [transmitEvents, sentEvents, Event.isBus, List.countP_cons]

theorem countP_isBus_allEvents (c : Config) (cmds : List Command) :
    (allEvents c cmds).countP Event.isBus = wireLength cmds := by
  induction cmds with
  | nil => rfl
  | cons cmd cmds ih => rw [allEvents, List.countP_append, countP_isBus_transmitEvents, ih, wireLength]

theorem wireLength_updateCommands (c : Config) (m : Memory) :
    wireLength (updateCommands c m) = 2 * ((c.width + 7) / 8) * c.height + 3 + c.payloadRefresh.length := by
  simp only [updateCommands, wireLength, blackPlane, accentPlane, length_plane, rowBytes]
  ring

/-- An UPDATE that ends in Ready has sent all its commands. -/
theorem updateBody_ready {s : State} (h : (updateBody s).state = .ready) :
    ∃ es, (∀ e ∈ es, e.isQuiet = true)
      ∧ (updateBody s).trace = s.trace ++ (allEvents s.cfg (updateCommands s.cfg s.fb) ++ es) := by
  rcases s.env.ok_or_fails (wireLength (updateCommands s.cfg s.fb)) with hok | ⟨n, hn, hfail⟩
  · rw [updateBody_ok hok, updateCommands_sentAll, updateEnd] at h ⊢
    obtain ⟨n, es, hquiet, ⟨e, hw⟩ | hw⟩ := waitReady_cases (durationWord s.cfg.refreshTimeoutUs)
      { s.sentAll (updateCommands s.cfg s.fb) with state := .refreshing } <;>
      rw [updateCommands_sentAll] at hw <;> rw [hw] at h ⊢
    · have hall : ∀ x ∈ es ++ [Event.rsp .ok e], x.isQuiet = true :=
        List.forall_mem_append.2 ⟨hquiet, by simp [Event.isQuiet]⟩
      exact ⟨_, hall, by simp⟩
    · cases h
  · rw [updateBody_busFaults s n hfail hn] at h
    cases h

/-- Settles O34: the bytes of the three commands, and none in the wait and the response. -/
theorem updateByteCount : Obligations.UpdateByteCount := by
  intro s t hs h ht
  rw [exec_update_admitted hs] at h
  cases h
  obtain ⟨es, hquiet, htrace⟩ := updateBody_ready ht
  refine ⟨_, htrace, ?_⟩
  rw [List.countP_append, countP_isBus_allEvents, countP_isBus_quiet hquiet, wireLength_updateCommands, Nat.add_zero]

end Sys2Proof.Machine
end

section
/-! PROOFS of the family 'other', the step (10_state.md section 10, 30_encoding.md R94): one equation for each case of
`step`, what a micro-step may touch in every state, and that every step from the invariant is good (`step_good`). -/

namespace Sys2Proof.Machine

/-! ### The cases of a step -/

theorem step_of_reset {s : State} {rest : List HostInput} (h : s.host = .reset :: rest) :
    step s = State.blockReset { s with host := rest } := by
  simp only [step, h]

theorem step_of_request {s : State} {w : ReqWord} {rest : List HostInput} (hp : s.phase = .idle)
    (hb : s.busyFlag = false) (h : s.host = .request w :: rest) : step s = runRequest w { s with host := rest } := by
  simp only [step, h, hp, hb]
  rfl

theorem step_of_busy {s : State} (hp : s.phase ≠ .idle) (h : s.host.head? ≠ some .reset) : step s = advance s := by
  unfold step
  split
  · next heq => simp [heq] at h
  · rw [if_neg hp]
  · rfl

theorem advance_of_command {s : State} {p : PanelCmd} (hp : s.phase = .command p) : advance s = exec p.instr s := by
  simp only [advance, hp]

theorem advance_of_micro {s : State} (hp : ∀ p, s.phase ≠ .command p) : advance s = microStep s := by
  unfold advance
  split
  · next p heq => exact absurd heq (hp p)
  · rfl

theorem microStep_of_idle {s : State} (hp : s.phase = .idle) : microStep s = .next s := by
  simp only [microStep, hp]

/-- Everything a step can do. -/
theorem step_cases {s t : State} (h : step s = .next t) :
    (∃ rest, s.host = .reset :: rest ∧ State.blockReset { s with host := rest } = .next t)
    ∨ (∃ w rest, s.host = .request w :: rest ∧ s.phase = .idle ∧ runRequest w { s with host := rest } = .next t)
    ∨ (∃ p, s.phase = .command p ∧ exec p.instr s = .next t)
    ∨ microStep s = .next t := by
  have hadvance (h : advance s = .next t) :
      (∃ p, s.phase = .command p ∧ exec p.instr s = .next t) ∨ microStep s = .next t := by
    by_cases hp : ∃ p, s.phase = .command p
    · obtain ⟨p, hp⟩ := hp
      exact .inl ⟨p, hp, advance_of_command hp ▸ h⟩
    · exact .inr (advance_of_micro (not_exists.1 hp) ▸ h)
  unfold step at h
  split at h
  · next rest heq => exact .inl ⟨rest, heq, h⟩
  · next w rest heq =>
    split at h
    · next hp =>
      split at h
      · exact .inr (.inr (.inr ((microStep_of_idle hp).trans h)))
      · exact .inr (.inl ⟨w, rest, heq, hp, h⟩)
    · exact .inr (.inr (hadvance h))
  · exact .inr (.inr (hadvance h))

/-- Settles O36: acceptance is a record update, then `exec`. -/
theorem stepRunsTheDecodedRequest : Obligations.StepRunsTheDecodedRequest := by
  intro s w rest i hp hb hhost hdec u
  rw [step_of_request hp hb hhost, runRequest, hdec]
  rfl

/-- Settles O37. -/
theorem stepRunsTheCommandAtHand : Obligations.StepRunsTheCommandAtHand := by
  intro s p hp hhost
  rw [step_of_busy (by simp [hp]) hhost, advance_of_command hp]

/-- Settles O38: the response clears what acceptance has set. -/
theorem illegalRequestChangesNothing : Obligations.IllegalRequestChangesNothing := by
  intro s w rest e hp hb hhost hdec
  rw [step_of_request hp hb hhost, runRequest, hdec]
  rfl

/-! ### Requests -/

/-- Everything a request can do: it is answered, and leaves the store unless it decodes to SET_PIXEL or CLEAR. -/
theorem runRequest_answers (w : ReqWord) (s : State) :
    ∃ t es ops pulse, runRequest w s = .next t ∧ Answers (s.accept w) t es ops pulse
      ∧ (t.fb = s.fb ∨ (∃ x y col, decodeRequest w = .ok (.setPixel x y col)) ∨ ∃ col, decodeRequest w = .ok (.clear col)) := by
  rw [runRequest]
  cases hdec : decodeRequest w with
  | error e => exact ⟨_, _, _, _, rfl, answers_respond .illegalRequest 0 _, .inl rfl⟩
  | ok i =>
    have hi : i.requestFields ≠ none := by simp [decodeRequest_eq_ok_iff.1 hdec]
    obtain ⟨t, es, ops, hexec, hperf⟩ := exec_performs hi (s.accept w)
    refine ⟨t, es, ops, _, hexec, hperf.toAnswers, hperf.store.imp id (Or.imp ?_ ?_)⟩
    · rintro ⟨x, y, col, rfl⟩
      exact ⟨x, y, col, rfl⟩
    · rintro ⟨col, rfl⟩
      exact ⟨col, rfl⟩

/-! ### The micro-steps, one equation each -/

@[simp] theorem readScratch_some {α : Type} (r : ScratchReg) (a : α) (k : α → Host.Outcome State Fault Refusal) :
    readScratch r (some a) k = k a := rfl

theorem microWaitStart_eq {w : Wait} {s : State} {bound : Word} (hbound : waitBound w s = some bound) :
    microWaitStart w s = .next { s with
      state := if w = .refreshReady then .refreshing else s.state
      timeout := some bound
      elapsed := some 0
      phase := .waitSample w } := by
  rw [microWaitStart, hbound]
  rfl

theorem microWaitOk_resetReady {s : State} {a : Word} (e : Word) (ha : s.acc = some a) :
    microWaitOk .resetReady e s = .next { s with acc := some (a + e), phase := .command .setResolution } := by
  rw [microWaitOk, ha]
  rfl

theorem microWaitOk_configReady {s : State} {a : Word} (e : Word) (ha : s.acc = some a) :
    microWaitOk .configReady e s = .next ({ s with acc := some (a + e), state := .ready }.respond .ok (a + e)) := by
  rw [microWaitOk, ha]
  rfl

theorem microWaitSample_eq {w : Wait} {s : State} {e bound : Word} (he : s.elapsed = some e)
    (hbound : s.timeout = some bound) :
    microWaitSample w s =
      if s.env.busyAt 0 = busyIdle s.cfg then microWaitOk w e (s.polled 1 [.sample (s.env.busyAt 0)])
      else if e.toNat + s.cfg.pollDelayUs > bound.toNat then
        .next (microWaitTimedOut w (s.polled 1 [.sample (s.env.busyAt 0)]))
      else .next { s.polled 1 [.sample (s.env.busyAt 0)] with phase := .waitDelay w } := by
  rw [microWaitSample, he, hbound]
  rfl

theorem microWaitDelay_eq {w : Wait} {s : State} {e : Word} (he : s.elapsed = some e) :
    microWaitDelay w s = .next { s.delayUs s.cfg.pollDelayUs with
      elapsed := some (e + durationWord s.cfg.pollDelayUs), phase := .waitSample w } := by
  rw [microWaitDelay, he]
  rfl

theorem microOpcode_eq {s : State} {op : Byte} {src : CmdSrc} (hop : s.cmdOp = some op) (hsrc : s.cmdSrc = some src) :
    microOpcode s = .next { s.wrote [op] with
      phase := if s.env.busAt 0 = .err then .txAbort
        else if payloadOf s.cfg s.fb src = [] then .txEnd else .txData } := by
  rw [microOpcode, hop, hsrc]
  simp only [readScratch_some, busWrite_eq]
  cases s.env.busAt 0 <;> rfl

theorem microEnd_eq {s : State} {src : CmdSrc} (hsrc : s.cmdSrc = some src) :
    microEnd s = .next { (s.setLine .cs (csIdle s.cfg)).clearCommand with phase := phaseAfter (cmdOfSrc src) } := by
  rw [microEnd, hsrc]
  rfl

theorem microByte_eq {s : State} {src : CmdSrc} {k : Nat} {b : Byte} (hsrc : s.cmdSrc = some src)
    (hk : s.cmdIdx = some k) (hb : (payloadOf s.cfg s.fb src)[k]? = some b) :
    microByte s = if s.env.busAt 0 = .err then .next { s.wrote [b] with phase := .txAbort }
      else .next { s.wrote [b] with
        cmdIdx := some (k + 1)
        phase := if k + 1 < (payloadOf s.cfg s.fb src).length then .txByte else .txEnd } := by
  rw [microByte, hsrc, hk]
  simp only [readScratch_some, hb, busWrite_eq]
  cases s.env.busAt 0 <;> rfl

theorem microByte_end {s : State} {src : CmdSrc} {k : Nat} (hsrc : s.cmdSrc = some src)
    (hk : s.cmdIdx = some k) (hb : (payloadOf s.cfg s.fb src)[k]? = none) : microByte s = microEnd s := by
  rw [microByte, hsrc, hk]
  simp only [readScratch_some, hb]

/-! ### What a micro-step touches -/

theorem readScratch_eq_next {α : Type} {r : ScratchReg} {v : Option α} {k : α → Host.Outcome State Fault Refusal}
    {t : State} (h : readScratch r v k = .next t) : ∃ a, v = some a ∧ k a = .next t := by
  cases v with
  | none => cases h
  | some a => exact ⟨a, rfl, h⟩

/-- `t` is `s` after some events, and the store is the same. -/
def Touches (s t : State) : Prop := (∃ es, Ran s t es) ∧ t.fb = s.fb

theorem Touches.refl (s : State) : Touches s s := ⟨⟨[], Ran.refl s⟩, rfl⟩

theorem Touches.trans {s t u : State} (h : Touches s t) (h' : Touches t u) : Touches s u := by
  obtain ⟨⟨es, hran⟩, hfb⟩ := h
  obtain ⟨⟨fs, hran'⟩, hfb'⟩ := h'
  exact ⟨⟨_, hran.trans hran'⟩, hfb'.trans hfb⟩

/-- A write of registers that are no line and no cell of the store. -/
theorem touches_of_eq {s t : State} (htrace : t.trace = s.trace := by rfl) (hcfg : t.cfg = s.cfg := by rfl)
    (hhost : t.host = s.host := by rfl) (hdraws : t.dcDraws = s.dcDraws := by rfl) (hcs : t.cs = s.cs := by rfl)
    (hdc : t.dc = s.dc := by rfl) (hrst : t.rst = s.rst := by rfl) (hfb : t.fb = s.fb := by rfl) : Touches s t :=
  ⟨⟨[], by rw [htrace, List.append_nil], hcfg, hhost, hdraws, hcs, hdc, hrst⟩, hfb⟩

theorem touches_setLine (l : Line) (v : Level) (s : State) : Touches s (s.setLine l v) :=
  ⟨⟨_, ran_setLine l v s⟩, by cases l <;> rfl⟩

theorem Touches.respond {s t : State} (h : Touches s t) (st : Status) (d : Word) : Touches s (t.respond st d) :=
  h.trans ⟨⟨_, ran_respond st d t⟩, rfl⟩

theorem touches_takeFault (r : FaultReason) (st : Status) (d : Word) (s : State) : Touches s (s.takeFault r st d) :=
  ⟨⟨_, ran_takeFault r st d s⟩, rfl⟩

theorem touches_sample (v : Level) (s : State) : Touches s (s.polled 1 [.sample v]) :=
  ⟨⟨_, ran_polled s 1 (by simp [Event.isQuiet])⟩, rfl⟩

theorem touches_wrote (b : Byte) (s : State) : Touches s (s.wrote [b]) :=
  ⟨⟨[.bus b], rfl, rfl, rfl, rfl, rfl, rfl, rfl⟩, rfl⟩

theorem microWaitOk_touches {w : Wait} {e : Word} {s t : State} (h : microWaitOk w e s = .next t) : Touches s t := by
  cases w with
  | resetReady =>
    obtain ⟨a, -, h⟩ := readScratch_eq_next h
    cases h
    exact touches_of_eq
  | configReady =>
    obtain ⟨a, -, h⟩ := readScratch_eq_next h
    cases h
    exact Touches.respond touches_of_eq _ _
  | refreshReady =>
    cases h
    exact Touches.respond touches_of_eq _ _
  | host =>
    cases h
    exact Touches.respond touches_of_eq _ _

theorem microWaitTimedOut_touches (w : Wait) (s : State) : Touches s (microWaitTimedOut w s) := by
  cases w with
  | host => exact (Touches.refl s).respond _ _
  | resetReady | configReady | refreshReady => exact touches_takeFault _ _ _ s

theorem microWaitSample_touches {w : Wait} {s t : State} (h : microWaitSample w s = .next t) : Touches s t := by
  obtain ⟨e, he, hnext⟩ := readScratch_eq_next h
  obtain ⟨bound, hbound, -⟩ := readScratch_eq_next hnext
  rw [microWaitSample_eq he hbound] at h
  split at h
  · exact (touches_sample _ s).trans (microWaitOk_touches h)
  · split at h
    · cases h
      exact (touches_sample _ s).trans (microWaitTimedOut_touches w _)
    · cases h
      exact (touches_sample _ s).trans touches_of_eq

theorem microEnd_touches {s t : State} (h : microEnd s = .next t) : Touches s t := by
  obtain ⟨src, hsrc, -⟩ := readScratch_eq_next h
  rw [microEnd_eq hsrc] at h
  cases h
  exact (touches_setLine .cs _ s).trans touches_of_eq

theorem microOpcode_touches {s t : State} (h : microOpcode s = .next t) : Touches s t := by
  obtain ⟨op, hop, hnext⟩ := readScratch_eq_next h
  obtain ⟨src, hsrc, -⟩ := readScratch_eq_next hnext
  rw [microOpcode_eq hop hsrc] at h
  cases h
  exact (touches_wrote op s).trans touches_of_eq

theorem microByte_touches {s t : State} (h : microByte s = .next t) : Touches s t := by
  obtain ⟨src, hsrc, hnext⟩ := readScratch_eq_next h
  obtain ⟨k, hk, -⟩ := readScratch_eq_next hnext
  cases hb : (payloadOf s.cfg s.fb src)[k]? with
  | none =>
    rw [microByte_end hsrc hk hb] at h
    exact microEnd_touches h
  | some b =>
    rw [microByte_eq hsrc hk hb] at h
    split at h <;> cases h <;> exact (touches_wrote b s).trans touches_of_eq

theorem touches_delayUs (us : Nat) (s : State) : Touches s (s.delayUs us) := ⟨⟨_, ran_delayUs us s⟩, rfl⟩

theorem microWaitStart_touches {w : Wait} {s t : State} (h : microWaitStart w s = .next t) : Touches s t := by
  obtain ⟨bound, -, h⟩ := readScratch_eq_next h
  cases h
  exact touches_of_eq

theorem microWaitDelay_touches {w : Wait} {s t : State} (h : microWaitDelay w s = .next t) : Touches s t := by
  obtain ⟨e, he, -⟩ := readScratch_eq_next h
  rw [microWaitDelay_eq he] at h
  cases h
  exact (touches_delayUs _ s).trans touches_of_eq

/-- Everything a micro-step can touch, in every state. -/
theorem microStep_touches {s t : State} (h : microStep s = .next t) : Touches s t := by
  unfold microStep at h
  generalize s.phase = phase at h
  cases phase with
  | idle => cases h; exact .refl s
  | pulseStart | pulseEnd => cases h; exact (touches_setLine .rst _ s).trans touches_of_eq
  | pulseHold => cases h; exact (touches_delayUs _ s).trans touches_of_eq
  | waitStart w => exact microWaitStart_touches h
  | waitSample w => exact microWaitSample_touches h
  | waitDelay w => exact microWaitDelay_touches h
  | command p => cases h; exact (touches_setLine .dc _ s).trans touches_of_eq
  | txSelect => cases h; exact (touches_setLine .cs _ s).trans touches_of_eq
  | txOpcode => exact microOpcode_touches h
  | txData => cases h; exact (touches_setLine .dc _ s).trans touches_of_eq
  | txByte => exact microByte_touches h
  | txEnd => exact microEnd_touches h
  | txAbort => cases h; exact (touches_setLine .cs _ s).trans (touches_takeFault _ _ _ _)
  | finishPowerOff => cases h; exact Touches.respond touches_of_eq _ _

end Sys2Proof.Machine
end

section
/-! PROOFS of the family 'other', the invariant (10_state.md section 10): from a state in it every step but a block
reset asserted during an operation answers a state in it, along the table of 43_display_protocol.md R160. -/

namespace Sys2Proof.Machine

/-! ### Good steps -/

/-- `t` is in the invariant, and STATE and FAULT_REASON have moved along the table. -/
structure Good (s t : State) : Prop where
  inv  : t.Inv
  move : Move s.state s.faultReason t.state t.faultReason

/-- A step that leaves the operation in progress. -/
theorem State.Inv.good_busy {s t : State} (h : s.Inv) (hs : s.phase ≠ .idle) (ht : t.phase ≠ .idle)
    (hmove : Move s.state s.faultReason t.state t.faultReason)
    (hcs : t.cs = if t.phase.selected then s.cfg.csAssertLevel else csIdle s.cfg)
    (hrst : t.rst = if t.phase.inPulse then s.cfg.rstAssertLevel else rstIdle s.cfg) (hpos : t.positionOk)
    (hcfg : t.cfg = s.cfg := by rfl) (hfb : t.fb = s.fb := by rfl) (hbusy : t.busyFlag = s.busyFlag := by rfl) :
    Good s t where
  move := hmove
  inv := {
    cfgWf := hcfg ▸ h.cfgWf
    fbWf := hcfg ▸ hfb ▸ h.fbWf
    reason := hmove.reason h.reason
    busy := iff_of_true (hbusy.trans (h.busy.2 hs)) ht
    csLevel := hcfg ▸ hcs
    rstLevel := hcfg ▸ hrst
    position := hpos }

/-- A step that ends the operation with its response. -/
theorem State.Inv.good_respond {s u : State} (h : s.Inv) (st : Status) (d : Word)
    (hmove : Move s.state s.faultReason u.state u.faultReason) (hp : u.state ≠ .refreshing)
    (hcs : u.cs = csIdle s.cfg) (hrst : u.rst = rstIdle s.cfg) (hcfg : u.cfg = s.cfg := by rfl)
    (hfb : u.fb = s.fb := by rfl) : Good s (u.respond st d) where
  move := hmove
  inv := {
    cfgWf := (congrArg Config.wf hcfg).trans h.cfgWf
    fbWf := by
      show Memory.wf (cellCount u.cfg) u.fb
      rw [hcfg, hfb]
      exact h.fbWf
    reason := hmove.reason h.reason
    busy := ⟨nofun, fun hidle => absurd rfl hidle⟩
    csLevel := hcs.trans (congrArg csIdle hcfg).symm
    rstLevel := hrst.trans (congrArg rstIdle hcfg).symm
    position := ⟨hp, rfl, rfl, rfl, rfl, rfl, rfl, rfl⟩ }

theorem State.Inv.csLevel_of_phase {s : State} {p : Phase} (h : s.Inv) (hp : s.phase = p) :
    s.cs = if p.selected then s.cfg.csAssertLevel else csIdle s.cfg := hp ▸ h.csLevel

theorem State.Inv.rstLevel_of_phase {s : State} {p : Phase} (h : s.Inv) (hp : s.phase = p) :
    s.rst = if p.inPulse then s.cfg.rstAssertLevel else rstIdle s.cfg := hp ▸ h.rstLevel

/-! ### The micro-steps of the reset pulse -/

theorem State.Inv.position_pulse {s : State} (h : s.Inv) (hp : s.phase = .pulseStart ∨ s.phase = .pulseHold ∨ s.phase = .pulseEnd) :
    s.state = .uninitialized ∧ s.acc ≠ none := by
  have hpos := h.position
  rcases hp with hp | hp | hp <;> simpa only [State.positionOk, hp] using hpos

theorem good_pulseStart {s : State} (h : s.Inv) (hp : s.phase = .pulseStart) :
    Good s { s.setLine .rst s.cfg.rstAssertLevel with phase := .pulseHold } := by
  have hcs := h.csLevel_of_phase hp
  exact h.good_busy (by simp [hp]) nofun (.stay _ _) hcs rfl (h.position_pulse (.inl hp))

theorem good_pulseHold {s : State} (h : s.Inv) (hp : s.phase = .pulseHold) :
    Good s { s.delayUs s.cfg.resetPulseUs with phase := .pulseEnd } := by
  have hcs := h.csLevel_of_phase hp
  have hrst := h.rstLevel_of_phase hp
  exact h.good_busy (by simp [hp]) nofun (.stay _ _) hcs hrst (h.position_pulse (.inr (.inl hp)))

theorem good_pulseEnd {s : State} (h : s.Inv) (hp : s.phase = .pulseEnd) :
    Good s { s.setLine .rst (rstIdle s.cfg) with phase := .waitStart .resetReady } := by
  have hcs := h.csLevel_of_phase hp
  exact h.good_busy (by simp [hp]) nofun (.stay _ _) hcs rfl (h.position_pulse (.inr (.inr hp)))

/-! ### The micro-steps of a wait -/

theorem good_waitStart {s : State} {w : Wait} (h : s.Inv) (hp : s.phase = .waitStart w) :
    ∃ t, microWaitStart w s = .next t ∧ Good s t := by
  have hpos := h.position
  simp only [State.positionOk, hp] at hpos
  have hcs := h.csLevel_of_phase hp
  have hrst := h.rstLevel_of_phase hp
  have hbusy : s.phase ≠ .idle := by simp [hp]
  cases w with
  | resetReady | configReady =>
    exact ⟨_, rfl, h.good_busy hbusy nofun (.stay _ _) hcs hrst ⟨hpos, nofun, nofun⟩⟩
  | refreshReady =>
    have hready : s.state = .ready := hpos
    exact ⟨_, rfl, h.good_busy hbusy nofun (hready ▸ .refreshStart _) hcs hrst ⟨rfl, nofun, nofun⟩⟩
  | host =>
    obtain ⟨hstate, hreq⟩ := hpos
    obtain ⟨w, hw⟩ := Option.ne_none_iff_exists'.1 hreq
    have hbound : waitBound .host s = some (reqTimeout w) := by rw [waitBound, hw, Option.map_some]
    exact ⟨_, microWaitStart_eq hbound, h.good_busy hbusy nofun (.stay _ _) hcs hrst ⟨hstate, nofun, nofun⟩⟩

theorem good_waitDelay {s : State} {w : Wait} (h : s.Inv) (hp : s.phase = .waitDelay w) :
    ∃ t, microWaitDelay w s = .next t ∧ Good s t := by
  have hpos := h.position
  simp only [State.positionOk, hp] at hpos
  obtain ⟨hpolls, helapsed, htimeout⟩ := hpos
  obtain ⟨e, he⟩ := Option.ne_none_iff_exists'.1 helapsed
  have hcs := h.csLevel_of_phase hp
  have hrst := h.rstLevel_of_phase hp
  exact ⟨_, microWaitDelay_eq he, h.good_busy (by simp [hp]) nofun (.stay _ _) hcs hrst ⟨hpolls, nofun, htimeout⟩⟩

/-- The moves of STATE at the two ends of a wait (43_display_protocol.md R162, R163). -/
theorem good_waitOk {s : State} {w : Wait} (e : Word) (es : List Event) (h : s.Inv) (hp : s.phase = .waitSample w) :
    ∃ t, microWaitOk w e (s.polled 1 es) = .next t ∧ Good s t := by
  have hpos := h.position
  simp only [State.positionOk, hp] at hpos
  obtain ⟨hpolls, -, -⟩ := hpos
  have hcs := h.csLevel_of_phase hp
  have hrst := h.rstLevel_of_phase hp
  cases w with
  | resetReady =>
    obtain ⟨hstate, hacc⟩ := hpolls
    obtain ⟨a, ha⟩ := Option.ne_none_iff_exists'.1 hacc
    exact ⟨_, microWaitOk_resetReady e ha, h.good_busy (by simp [hp]) nofun (.stay _ _) hcs hrst ⟨hstate, nofun⟩⟩
  | configReady =>
    obtain ⟨hstate, hacc⟩ := hpolls
    obtain ⟨a, ha⟩ := Option.ne_none_iff_exists'.1 hacc
    exact ⟨_, microWaitOk_configReady e ha, h.good_respond .ok _ (hstate ▸ .initDone _) nofun hcs hrst⟩
  | refreshReady =>
    have hstate : s.state = .refreshing := hpolls
    exact ⟨_, rfl, h.good_respond .ok _ (hstate ▸ .refreshDone _) nofun hcs hrst⟩
  | host => exact ⟨_, rfl, h.good_respond .ok _ (.stay _ _) hpolls hcs hrst⟩

theorem good_waitTimedOut {s : State} {w : Wait} (es : List Event) (h : s.Inv) (hp : s.phase = .waitSample w) :
    Good s (microWaitTimedOut w (s.polled 1 es)) := by
  have hpos := h.position
  simp only [State.positionOk, hp] at hpos
  obtain ⟨hpolls, -, -⟩ := hpos
  have hcs := h.csLevel_of_phase hp
  have hrst := h.rstLevel_of_phase hp
  cases w with
  | resetReady => exact h.good_respond .timeout _ (hpolls.1 ▸ .initFault _ (.inl rfl)) nofun hcs hrst
  | configReady => exact h.good_respond .timeout _ (hpolls.1 ▸ .initFault _ (.inr (.inl rfl))) nofun hcs hrst
  | refreshReady =>
    have hstate : s.state = .refreshing := hpolls
    exact h.good_respond .timeout _ (hstate ▸ .refreshFault _) nofun hcs hrst
  | host => exact h.good_respond .timeout _ (.stay _ _) hpolls hcs hrst

theorem good_waitSample {s : State} {w : Wait} (h : s.Inv) (hp : s.phase = .waitSample w) :
    ∃ t, microWaitSample w s = .next t ∧ Good s t := by
  have hpos := h.position
  simp only [State.positionOk, hp] at hpos
  obtain ⟨hpolls, helapsed, htimeout⟩ := hpos
  obtain ⟨e, he⟩ := Option.ne_none_iff_exists'.1 helapsed
  obtain ⟨bound, hbound⟩ := Option.ne_none_iff_exists'.1 htimeout
  rw [microWaitSample_eq he hbound]
  split
  · exact good_waitOk e _ h hp
  · split
    · exact ⟨_, rfl, good_waitTimedOut _ h hp⟩
    · have hcs := h.csLevel_of_phase hp
      have hrst := h.rstLevel_of_phase hp
      exact ⟨_, rfl, h.good_busy (by simp [hp]) nofun (.stay _ _) hcs hrst ⟨hpolls, helapsed, htimeout⟩⟩

/-! ### The micro-steps of a transaction -/

/-- What holds inside a transaction: the Command registers are those of a command, sent in its state. -/
def State.transmitting (s : State) : Prop :=
  ∃ p : PanelCmd, s.cmdSrc = some (cmdSrcOf p) ∧ s.cmdOp ≠ none ∧ s.cmdIdx ≠ none ∧ s.state = cmdSentIn p
    ∧ cmdAccWritten p s

/-- The positions inside a transaction. -/
def Phase.inTransaction : Phase → Bool
  | .txSelect | .txOpcode | .txData | .txByte | .txEnd | .txAbort => true
  | .idle | .pulseStart | .pulseHold | .pulseEnd | .waitStart _ | .waitSample _ | .waitDelay _ | .command _
  | .finishPowerOff => false

theorem positionOk_iff_transmitting {s : State} (hp : s.phase.inTransaction = true) :
    s.positionOk ↔ s.transmitting := by
  unfold State.positionOk
  cases h : s.phase <;> simp only [h, Phase.inTransaction, Bool.false_eq_true] at hp <;> rfl

theorem inTransaction_facts {p : Phase} (hp : p.inTransaction = true) : p ≠ .idle ∧ p.inPulse = false := by
  refine ⟨fun hidle => ?_, ?_⟩
  · rw [hidle] at hp
    cases hp
  · cases p <;> simp_all [Phase.inTransaction, Phase.inPulse]

/-- A micro-step from a position of a transaction to another one. -/
theorem State.Inv.good_transmitting {s t : State} (h : s.Inv) (hp : s.phase.inTransaction = true)
    (htp : t.phase.inTransaction = true) (ht : t.transmitting)
    (hcs : t.cs = if t.phase.selected then s.cfg.csAssertLevel else csIdle s.cfg)
    (hstate : t.state = s.state := by rfl) (hreason : t.faultReason = s.faultReason := by rfl)
    (hrst : t.rst = s.rst := by rfl)
    (hcfg : t.cfg = s.cfg := by rfl) (hfb : t.fb = s.fb := by rfl) (hbusy : t.busyFlag = s.busyFlag := by rfl) :
    Good s t := by
  have hrest : t.rst = if t.phase.inPulse then s.cfg.rstAssertLevel else rstIdle s.cfg := by
    rw [hrst, h.rstLevel, (inTransaction_facts hp).2, (inTransaction_facts htp).2]
  exact h.good_busy (inTransaction_facts hp).1 (inTransaction_facts htp).1 (.of_eq hstate hreason) hcs hrest
    ((positionOk_iff_transmitting htp).2 ht) hcfg hfb hbusy

theorem State.Inv.transmitting {s : State} (h : s.Inv) (hp : s.phase.inTransaction = true) : s.transmitting :=
  (positionOk_iff_transmitting hp).1 h.position

theorem cmdOfSrc_cmdSrcOf (p : PanelCmd) : cmdOfSrc (cmdSrcOf p) = p := by cases p <;> rfl

theorem move_busFault (p : PanelCmd) (r : FaultReason) : Move (cmdSentIn p) r .faulted .busFault := by
  cases p with
  | setResolution | loadWaveformTable => exact .initFault r (.inr (.inr rfl))
  | dataBlack | dataAccent | refresh | powerDown => exact .readyFault r (.inr rfl)

/-- The position after a command is reached in the command's state, between transactions. -/
theorem State.Inv.good_phaseAfter {s t : State} {p : PanelCmd} (h : s.Inv) (hs : s.phase ≠ .idle)
    (hsp : s.phase.inPulse = false) (htp : t.phase = phaseAfter p) (hsent : s.state = cmdSentIn p)
    (hacc : cmdAccWritten p t) (hcs : t.cs = csIdle s.cfg) (hstate : t.state = s.state := by rfl)
    (hreason : t.faultReason = s.faultReason := by rfl) (hrst : t.rst = s.rst := by rfl)
    (hcfg : t.cfg = s.cfg := by rfl) (hfb : t.fb = s.fb := by rfl) (hbusy : t.busyFlag = s.busyFlag := by rfl) :
    Good s t := by
  have hphase : phaseAfter p ≠ .idle ∧ (phaseAfter p).selected = false ∧ (phaseAfter p).inPulse = false := by
    cases p <;> exact ⟨nofun, rfl, rfl⟩
  have hpos : t.positionOk := by
    rw [← hstate] at hsent
    simp only [State.positionOk, htp]
    cases p with
    | setResolution | loadWaveformTable | dataBlack | dataAccent => exact ⟨hsent, hacc⟩
    | refresh | powerDown => exact hsent
  refine h.good_busy hs (htp ▸ hphase.1) (.of_eq hstate hreason) ?_ ?_ hpos hcfg hfb hbusy
  · rw [htp, hphase.2.1]
    exact hcs
  · rw [hrst, h.rstLevel, htp, hphase.2.2, hsp]

theorem good_txAbort {s : State} (h : s.Inv) (hp : s.phase = .txAbort) : Good s s.takeBusFault := by
  obtain ⟨p, -, -, -, hsent, -⟩ := h.transmitting (by rw [hp]; rfl)
  have hrst := h.rstLevel_of_phase hp
  exact h.good_respond .busFault 0 (hsent ▸ move_busFault p _) nofun rfl hrst

theorem good_txEnd {s : State} (h : s.Inv) (hp : s.phase = .txEnd ∨ s.phase = .txByte) :
    ∃ t, microEnd s = .next t ∧ Good s t := by
  have hin : s.phase.inTransaction = true := by rcases hp with hp | hp <;> rw [hp] <;> rfl
  obtain ⟨p, hsrc, -, -, hsent, hacc⟩ := h.transmitting hin
  exact ⟨_, microEnd_eq hsrc, h.good_phaseAfter (inTransaction_facts hin).1 (inTransaction_facts hin).2
    (congrArg phaseAfter (cmdOfSrc_cmdSrcOf p)) hsent hacc rfl⟩

theorem good_txSelect {s : State} (h : s.Inv) (hp : s.phase = .txSelect) :
    Good s { s.setLine .cs s.cfg.csAssertLevel with phase := .txOpcode } :=
  have hin : s.phase.inTransaction = true := hp ▸ rfl
  h.good_transmitting hin rfl (h.transmitting hin) rfl

theorem good_txData {s : State} (h : s.Inv) (hp : s.phase = .txData) :
    Good s { s.setLine .dc (dcData s.cfg) with phase := .txByte } :=
  have hin : s.phase.inTransaction = true := hp ▸ rfl
  have hcs := h.csLevel_of_phase hp
  h.good_transmitting hin rfl (h.transmitting hin) hcs

theorem good_txOpcode {s : State} (h : s.Inv) (hp : s.phase = .txOpcode) : ∃ t, microOpcode s = .next t ∧ Good s t := by
  have hin : s.phase.inTransaction = true := hp ▸ rfl
  have hcs := h.csLevel_of_phase hp
  obtain ⟨p, hsrc, hop, hidx, hsent, hacc⟩ := h.transmitting hin
  obtain ⟨op, hop'⟩ := Option.ne_none_iff_exists'.1 hop
  rw [microOpcode_eq hop' hsrc]
  refine ⟨_, rfl, ?_⟩
  split
  · exact h.good_transmitting hin rfl ⟨p, hsrc, hop, hidx, hsent, hacc⟩ hcs
  · split
    · exact h.good_transmitting hin rfl ⟨p, hsrc, hop, hidx, hsent, hacc⟩ hcs
    · exact h.good_transmitting hin rfl ⟨p, hsrc, hop, hidx, hsent, hacc⟩ hcs

theorem good_txByte {s : State} (h : s.Inv) (hp : s.phase = .txByte) : ∃ t, microByte s = .next t ∧ Good s t := by
  have hin : s.phase.inTransaction = true := hp ▸ rfl
  have hcs := h.csLevel_of_phase hp
  obtain ⟨p, hsrc, hop, hidx, hsent, hacc⟩ := h.transmitting hin
  obtain ⟨k, hk⟩ := Option.ne_none_iff_exists'.1 hidx
  cases hb : (payloadOf s.cfg s.fb (cmdSrcOf p))[k]? with
  | none =>
    rw [microByte_end hsrc hk hb]
    exact good_txEnd h (.inr hp)
  | some b =>
    rw [microByte_eq hsrc hk hb]
    split
    · exact ⟨_, rfl, h.good_transmitting hin rfl ⟨p, hsrc, hop, hidx, hsent, hacc⟩ hcs⟩
    · refine ⟨_, rfl, ?_⟩
      split
      · exact h.good_transmitting hin rfl ⟨p, hsrc, hop, nofun, hsent, hacc⟩ hcs
      · exact h.good_transmitting hin rfl ⟨p, hsrc, hop, nofun, hsent, hacc⟩ hcs

/-! ### Panel commands and the end of POWER_OFF -/

theorem State.Inv.at_command {s : State} {p : PanelCmd} (h : s.Inv) (hp : s.phase = .command p) :
    s.state = cmdSentIn p ∧ cmdAccWritten p s := by
  have hpos := h.position
  simpa only [State.positionOk, hp] using hpos

theorem good_microCommand {s : State} {p : PanelCmd} (h : s.Inv) (hp : s.phase = .command p) :
    Good s (microCommand p s) := by
  have hcs := h.csLevel_of_phase hp
  have hrst := h.rstLevel_of_phase hp
  obtain ⟨hsent, hacc⟩ := h.at_command hp
  exact h.good_busy (by simp [hp]) nofun (.stay _ _) hcs hrst ⟨p, rfl, nofun, nofun, hsent, hacc⟩

theorem good_exec_instr {s : State} {p : PanelCmd} (h : s.Inv) (hp : s.phase = .command p) :
    ∃ t, exec p.instr s = .next t ∧ Good s t := by
  obtain ⟨hsent, hacc⟩ := h.at_command hp
  rcases exec_instr_cases p s with hok | ⟨k, herr⟩
  · exact ⟨_, hok, h.good_phaseAfter (by simp [hp]) (by rw [hp]; rfl) rfl hsent hacc rfl⟩
  · have hrst := h.rstLevel_of_phase hp
    exact ⟨_, herr, h.good_respond .busFault 0 (hsent ▸ move_busFault p _) nofun rfl hrst⟩

theorem good_finishPowerOff {s : State} (h : s.Inv) (hp : s.phase = .finishPowerOff) :
    Good s ({ s with state := .poweredDown }.respond .ok 0) := by
  have hcs := h.csLevel_of_phase hp
  have hrst := h.rstLevel_of_phase hp
  have hpos := h.position
  simp only [State.positionOk, hp] at hpos
  exact h.good_respond .ok 0 (hpos ▸ .powerDown _) nofun hcs hrst

/-! ### Every micro-step and every step -/

theorem Good.refl {s : State} (h : s.Inv) : Good s s := ⟨h, .stay _ _⟩

theorem microStep_good {s : State} (h : s.Inv) : ∃ t, microStep s = .next t ∧ Good s t := by
  unfold microStep
  cases hp : s.phase with
  | idle => exact ⟨s, rfl, .refl h⟩
  | pulseStart => exact ⟨_, rfl, good_pulseStart h hp⟩
  | pulseHold => exact ⟨_, rfl, good_pulseHold h hp⟩
  | pulseEnd => exact ⟨_, rfl, good_pulseEnd h hp⟩
  | waitStart w => exact good_waitStart h hp
  | waitSample w => exact good_waitSample h hp
  | waitDelay w => exact good_waitDelay h hp
  | command p => exact ⟨_, rfl, good_microCommand h hp⟩
  | txSelect => exact ⟨_, rfl, good_txSelect h hp⟩
  | txOpcode => exact good_txOpcode h hp
  | txData => exact ⟨_, rfl, good_txData h hp⟩
  | txByte => exact good_txByte h hp
  | txEnd => exact good_txEnd h (.inl hp)
  | txAbort => exact ⟨_, rfl, good_txAbort h hp⟩
  | finishPowerOff => exact ⟨_, rfl, good_finishPowerOff h hp⟩

theorem advance_good {s : State} (h : s.Inv) : ∃ t, advance s = .next t ∧ Good s t := by
  by_cases hp : ∃ p, s.phase = .command p
  · obtain ⟨p, hp⟩ := hp
    rw [advance_of_command hp]
    exact good_exec_instr h hp
  · rw [advance_of_micro (not_exists.1 hp)]
    exact microStep_good h

theorem State.Inv.busyFlag_of_idle {s : State} (h : s.Inv) (hp : s.phase = .idle) : s.busyFlag = false :=
  Bool.eq_false_iff.2 fun hb => h.busy.1 hb hp

/-- A request taken from the port of an idle block ends between operations. -/
theorem runRequest_good {s : State} (h : s.Inv) (hp : s.phase = .idle) (w : ReqWord) (rest : List HostInput) :
    ∃ t, runRequest w { s with host := rest } = .next t ∧ Good s t := by
  obtain ⟨t, es, ops, pulse, hrun, hans, -⟩ := runRequest_answers w { s with host := rest }
  have hcs := h.csLevel_of_phase hp
  have hrst := h.rstLevel_of_phase hp
  have hpos := h.position
  simp only [State.positionOk, hp] at hpos
  refine ⟨t, hrun, { move := hans.move, inv := ?_ }⟩
  exact {
    cfgWf := hans.cfg ▸ h.cfgWf
    fbWf := hans.cfg ▸ hans.fbWf h.fbWf
    reason := hans.move.reason h.reason
    busy := by simp [hans.busyFlag, hans.phase]
    csLevel := by rw [hans.phase, hans.cfg]; exact hans.csRest hcs
    rstLevel := by rw [hans.phase, hans.cfg]; exact hans.rstRest hrst
    position := by
      simp only [State.positionOk, hans.phase]
      exact ⟨hans.notRefreshing hpos.1, hans.scratch⟩ }

/-! ### The block reset -/

theorem blockReset_of_idle {s : State} (hb : s.busyFlag = false) :
    State.blockReset s = .next { State.resetWith s.cfg (Config.freeDcLevel s.dcDraws) s.env s.host with
      trace := s.trace, dcDraws := s.dcDraws + 1 } := by
  rw [State.blockReset, hb]
  rfl

/-- What the invariant asks of a state it finds in every reset state. -/
theorem inv_of_reset {s : State} {c : Config} (hwf : c.wf = true) (hcfg : s.cfg = c := by rfl)
    (hfb : s.fb = [] := by rfl) (hstate : s.state = .uninitialized := by rfl) (hreason : s.faultReason = .none := by rfl)
    (hbusy : s.busyFlag = false := by rfl) (hphase : s.phase = .idle := by rfl) (hcs : s.cs = csIdle c := by rfl)
    (hrst : s.rst = rstIdle c := by rfl)
    (hscratch : s.scratchEmpty := by exact ⟨rfl, rfl, rfl, rfl, rfl, rfl, rfl⟩) : s.Inv where
  cfgWf := hcfg ▸ hwf
  fbWf := hfb ▸ Memory.nil_wf _
  reason := by simp [hreason, hstate]
  busy := by simp [hbusy, hphase]
  csLevel := by rw [hphase, hcs, hcfg]; rfl
  rstLevel := by rw [hphase, hrst, hcfg]; rfl
  position := by
    simp only [State.positionOk, hphase]
    exact ⟨by simp [hstate], hscratch⟩

theorem statusOut_of_reset {s : State} (hb : s.busyFlag = false := by rfl) (hr : s.faultReason = .none := by rfl)
    (hs : s.state = .uninitialized := by rfl) : s.statusOut = 0 := by
  rw [State.statusOut, hb, hr, hs]
  rfl

/-- Settles O42: the fields of the record. -/
theorem resetValues : Obligations.ResetValues := by
  intro c dc env host s
  exact ⟨rfl, rfl, rfl, rfl, fun _ => rfl, rfl, rfl, ⟨rfl, rfl, rfl, rfl, rfl, rfl, rfl⟩,
    statusOut_of_reset⟩

/-- Settles O43: the reset of an idle block is `State.resetWith`, with the trace kept. -/
theorem blockResetRestoresTheResetState : Obligations.BlockResetRestoresTheResetState := by
  intro s rest hb hhost
  refine ⟨_, (step_of_reset hhost).trans (blockReset_of_idle hb), ?_⟩
  exact ⟨rfl, rfl, rfl, rfl, fun _ => rfl, rfl, rfl, ⟨rfl, rfl, rfl, rfl, rfl, rfl, rfl⟩,
    statusOut_of_reset, rfl, rfl, rfl, rfl⟩

/-- Settles O45: every field at its reset value. -/
theorem resetSatisfiesTheInvariant : Obligations.ResetSatisfiesTheInvariant :=
  ⟨fun _ _ _ _ hwf => inv_of_reset hwf, inv_of_reset (c := Config.illustrative) (by decide)⟩

/-! ### Construction -/

theorem construct_of_wf {c : Config} (dc : Level) (env : Env) (host : List HostInput) (hwf : c.wf = true) :
    State.construct c dc env host = .next (State.resetWith c dc env host) := by
  have hdims : ¬ (c.width = 0 ∨ c.height = 0) := by
    simp only [Config.wf, Config.dimensionsOk, Bool.and_eq_true, decide_eq_true_eq] at hwf
    omega
  rw [State.construct, if_neg hdims, if_pos hwf]

theorem construct_of_not_wf {c : Config} (dc : Level) (env : Env) (host : List HostInput) (hwf : c.wf = false) :
    ∃ r, State.construct c dc env host = .refused r := by
  rw [State.construct, hwf]
  split
  · exact ⟨_, rfl⟩
  · exact ⟨_, rfl⟩

/-- Settles O44: construction answers exactly for a well-formed configuration, which has a positive poll delay. -/
theorem constructionRefusesBadConfigurations : Obligations.ConstructionRefusesBadConfigurations := by
  intro c dc env host
  refine ⟨fun hdims => by rw [State.construct, if_pos hdims], fun hpoll => ?_, fun s hs => ?_,
    construct_of_wf dc env host, construct_of_not_wf dc env host⟩
  · exact construct_of_not_wf dc env host (by simp [Config.wf, hpoll])
  · cases hwf : c.wf with
    | false =>
      obtain ⟨r, hr⟩ := construct_of_not_wf dc env host hwf
      cases hr.symm.trans hs
    | true =>
      cases (construct_of_wf dc env host hwf).symm.trans hs
      exact ⟨(Config.wf_wait_init hwf).1, fun _ => rfl⟩

/-! ### Every step -/

/-- A step from the invariant is refused, is the block reset, or is good. -/
theorem step_good {s : State} (h : s.Inv) :
    (s.busyFlag = true ∧ s.host.head? = some .reset ∧ step s = .refused .resetDuringOperation)
    ∨ (s.busyFlag = false ∧ s.host.head? = some .reset
        ∧ ∃ t, step s = .next t ∧ t.Inv ∧ t.state = .uninitialized ∧ t.faultReason = .none)
    ∨ (s.host.head? ≠ some .reset ∧ ∃ t, step s = .next t ∧ Good s t) := by
  rcases hhost : s.host with _ | ⟨w | _, rest⟩
  · refine .inr (.inr ⟨nofun, ?_⟩)
    simp only [step, hhost]
    exact advance_good h
  · refine .inr (.inr ⟨nofun, ?_⟩)
    by_cases hp : s.phase = .idle
    · rw [step_of_request hp (h.busyFlag_of_idle hp) hhost]
      exact runRequest_good h hp w rest
    · rw [step_of_busy hp (by simp [hhost])]
      exact advance_good h
  · rw [step_of_reset hhost]
    cases hb : s.busyFlag with
    | true => exact .inl ⟨rfl, rfl, rfl⟩
    | false => exact .inr (.inl ⟨rfl, rfl, _, rfl, inv_of_reset h.cfgWf, rfl, rfl⟩)

/-- Settles O41: the first case of `step_good`, or one of the others. -/
theorem stepNeverFaults : Obligations.StepNeverFaults := by
  intro s h
  rcases step_good h with hrefused | ⟨hb, -, t, ht, -⟩ | ⟨hhost, t, ht, -⟩
  · exact .inl hrefused
  · exact .inr ⟨fun hbusy => by simp [hb] at hbusy, t, ht⟩
  · exact .inr ⟨fun hreset => hhost hreset.2, t, ht⟩

/-- Settles O46: `step_good`, one case for each outcome. -/
theorem everyStepKeepsTheInvariant : Obligations.EveryStepKeepsTheInvariant := by
  intro s t h ht
  rcases step_good h with ⟨-, -, hr⟩ | ⟨-, -, t', ht', hinv, -⟩ | ⟨-, t', ht', hgood⟩
  · cases hr.symm.trans ht
  · cases ht'.symm.trans ht
    exact hinv
  · cases ht'.symm.trans ht
    exact hgood.inv

/-- A step from the invariant moves along the table, or is the block reset. -/
theorem step_move {s t : State} (h : s.Inv) (ht : step s = .next t) :
    Move s.state s.faultReason t.state t.faultReason
      ∨ (s.host.head? = some .reset ∧ t.state = .uninitialized ∧ t.faultReason = .none) := by
  rcases step_good h with ⟨-, -, hr⟩ | ⟨-, hhost, t', ht', -, hreset⟩ | ⟨-, t', ht', hgood⟩
  · cases hr.symm.trans ht
  · cases ht'.symm.trans ht
    exact .inr ⟨hhost, hreset⟩
  · cases ht'.symm.trans ht
    exact .inl hgood.move

/-- Settles O32: every move of a good step is a row of the table. -/
theorem stateMovesAlongTheTable : Obligations.StateMovesAlongTheTable := by
  intro s t h ht
  rcases step_move h ht with hmove | hreset
  · exact hmove.allowed
  · unfold allowedMove
    simp only [hreset, and_self, or_true]

/-- No move leaves PoweredDown or Faulted (10_state.md R36). -/
theorem Move.terminal {p p' : PanelState} {r r' : FaultReason} (h : Move p r p' r')
    (hp : p = .poweredDown ∨ p = .faulted) : p' = p ∧ r' = r := by
  cases h with
  | stay => exact ⟨rfl, rfl⟩
  | _ => rcases hp with hp | hp <;> cases hp

/-- Settles O33: no row of the table begins in a terminal state. -/
theorem terminalStatesAreLeftByResetOnly : Obligations.TerminalStatesAreLeftByResetOnly := by
  intro s t h hs ht
  exact (step_move h ht).imp_left fun hmove => hmove.terminal hs

end Sys2Proof.Machine
end

section
/-! PROOFS of the family 'other', what a step adds to the trace: a request by `runRequest_answers`, anything else by
`microStep_touches` and `exec_instr_framed`. -/

namespace Sys2Proof.Machine

/-! ### A request taken by an idle block -/

/-- What the step of an idle block with a request at the port does. -/
theorem step_request_answers {s t : State} {w : ReqWord} {rest : List HostInput} (h : s.Inv) (hp : s.phase = .idle)
    (hhost : s.host = .request w :: rest) (ht : step s = .next t) :
    ∃ es ops pulse, Answers (State.accept w { s with host := rest }) t es ops pulse := by
  rw [step_of_request hp (h.busyFlag_of_idle hp) hhost] at ht
  obtain ⟨t', es, ops, pulse, hrun, hans, -⟩ := runRequest_answers w { s with host := rest }
  cases hrun.symm.trans ht
  exact ⟨es, ops, pulse, hans⟩

/-- Settles O19: every operation is framed. -/
theorem everyRequestKeepsTheFraming : Obligations.EveryRequestKeepsTheFraming := by
  intro s t w rest h hp hhost ht
  obtain ⟨es, ops, pulse, hans⟩ := step_request_answers h hp hhost ht
  exact ⟨es, hans.trace, hans.framing⟩

/-- Settles O39: the response is the last event of an answered operation, and the others are hardware events. -/
theorem oneResponsePerRequest : Obligations.OneResponsePerRequest := by
  intro s t w rest h hp hhost ht
  obtain ⟨es, ops, pulse, hans⟩ := step_request_answers h hp hhost ht
  obtain ⟨hw, st, d, rfl, hhardware⟩ := hans.response
  exact ⟨hans.host, hw, st, d, by rw [List.append_assoc]; exact hans.trace, hhardware⟩

/-- Settles O47: an answered operation leaves an idle block, and the invariant gives the rest of it. -/
theorem betweenOperations : Obligations.BetweenOperations := by
  intro s t w rest h hp hhost ht
  obtain ⟨es, ops, pulse, hans⟩ := step_request_answers h hp hhost ht
  have hinv := everyStepKeepsTheInvariant s t h ht
  have hpos := hinv.position
  simp only [State.positionOk, hans.phase] at hpos
  exact ⟨hans.busyFlag, hans.phase, hpos.1, hinv.csLevel_of_phase hans.phase, hinv.rstLevel_of_phase hans.phase, hpos.2⟩

/-! ### Every step -/

theorem exec_instr_touches {p : PanelCmd} {s t : State} (h : exec p.instr s = .next t) : Touches s t := by
  obtain ⟨es, hframed, hfb⟩ := exec_instr_framed h
  exact ⟨⟨es, hframed.toRan⟩, hfb⟩

/-- Everything a step does to the events, the lines and the store: the block reset, a request, or a step inside an
operation, which touches neither the port nor the store. -/
theorem step_touches {s t : State} (ht : step s = .next t) :
    (∃ rest, s.host = .reset :: rest ∧ State.blockReset { s with host := rest } = .next t)
    ∨ (∃ w rest, s.host = .request w :: rest ∧ s.phase = .idle ∧ runRequest w { s with host := rest } = .next t)
    ∨ Touches s t := by
  rcases step_cases ht with hreset | hrequest | ⟨p, -, hexec⟩ | hmicro
  · exact .inl hreset
  · exact .inr (.inl hrequest)
  · exact .inr (.inr (exec_instr_touches hexec))
  · exact .inr (.inr (microStep_touches hmicro))

/-- The block reset keeps the configuration and the trace. -/
theorem blockReset_next {s t : State} (h : State.blockReset s = .next t) : t.cfg = s.cfg ∧ t.trace = s.trace := by
  cases hb : s.busyFlag with
  | true =>
    rw [State.blockReset, if_pos hb] at h
    cases h
  | false =>
    rw [blockReset_of_idle hb] at h
    cases h
    exact ⟨rfl, rfl⟩

/-- The events of a request run from the port, with what they do to the lines. -/
theorem runRequest_events {s t : State} {w : ReqWord} (h : runRequest w s = .next t) :
    ∃ es, t.trace = s.trace ++ es ∧ t.cfg = s.cfg ∧ t.cs = lineAfter .cs s.cs es ∧ t.dc = lineAfter .dc s.dc es
      ∧ t.rst = lineAfter .rst s.rst es := by
  obtain ⟨t', es, ops, pulse, hrun, hans, -⟩ := runRequest_answers w s
  cases hrun.symm.trans h
  exact ⟨es, hans.trace, hans.cfg, hans.cs, hans.dc, hans.rst⟩

/-- Settles O40: a busy block is inside an operation, and such a step leaves the port. -/
theorem busyBlockAcceptsNothing : Obligations.BusyBlockAcceptsNothing := by
  intro s t h hb ht
  rcases step_touches ht with ⟨rest, -, hreset⟩ | ⟨w, rest, -, hp, -⟩ | ⟨⟨es, hran⟩, -⟩
  · rw [State.blockReset, if_pos hb] at hreset
    cases hreset
  · exact absurd hp (h.busy.1 hb)
  · exact hran.host

/-- Settles O48: each of the three kinds of step. -/
theorem configurationIsConstantAndTraceGrows : Obligations.ConfigurationIsConstantAndTraceGrows := by
  intro s t ht
  rcases step_touches ht with ⟨rest, -, hreset⟩ | ⟨w, rest, -, -, hrun⟩ | ⟨⟨es, hran⟩, -⟩
  · obtain ⟨hcfg, htrace⟩ := blockReset_next hreset
    exact ⟨hcfg, htrace ▸ List.prefix_rfl⟩
  · obtain ⟨es, htrace, hcfg, -⟩ := runRequest_events hrun
    exact ⟨hcfg, es, htrace.symm⟩
  · exact ⟨hran.cfg, es, hran.trace.symm⟩

/-- Settles O49: a step inside an operation leaves the store, and a request does unless it is one of the two. -/
theorem storeIsWrittenBySetPixelAndClearOnly : Obligations.StoreIsWrittenBySetPixelAndClearOnly := by
  intro s t ht hne
  rcases step_touches ht with ⟨rest, hhost, -⟩ | ⟨w, rest, hhost, -, hrun⟩ | ⟨-, hfb⟩
  · exact .inl (by rw [hhost]; rfl)
  · obtain ⟨t', es, ops, pulse, hrun', -, hstore⟩ := runRequest_answers w { s with host := rest }
    cases hrun'.symm.trans hrun
    exact .inr ⟨w, by rw [hhost]; rfl, hstore.resolve_left hne⟩
  · exact absurd hfb hne

/-- Settles O50: the lines follow the events of a request and of a step inside an operation. -/
theorem linesFollowTheTrace : Obligations.LinesFollowTheTrace := by
  intro s t hhost ht
  rcases step_touches ht with ⟨rest, hreset, -⟩ | ⟨w, rest, -, -, hrun⟩ | ⟨⟨es, hran⟩, -⟩
  · exact absurd (by rw [hreset]; rfl) hhost
  · obtain ⟨es, htrace, -, hlines⟩ := runRequest_events hrun
    exact ⟨es, htrace, hlines⟩
  · exact ⟨es, hran.trace, hran.cs, hran.dc, hran.rst⟩

end Sys2Proof.Machine
end

section
/-! PROOFS of the family 'other', the sequencer against a panel command (10_state.md R23): byte by byte the
micro-steps end in the state the command's meaning gives. -/

namespace Sys2Proof.Machine

/-! ### Runs of micro-steps -/

/-- Some number of micro-steps leads from `s` to `t`. -/
def MicroReaches (s t : State) : Prop := ∃ n, microRun n s = .next t

theorem MicroReaches.refl (s : State) : MicroReaches s s := ⟨0, rfl⟩

theorem MicroReaches.head {s t u : State} (h : microStep s = .next t) (h' : MicroReaches t u) : MicroReaches s u := by
  obtain ⟨n, hn⟩ := h'
  exact ⟨n + 1, by rw [microRun, h]; exact hn⟩

theorem MicroReaches.single {s t : State} (h : microStep s = .next t) : MicroReaches s t := .head h (.refl t)

theorem MicroReaches.trans {s t u : State} (h : MicroReaches s t) (h' : MicroReaches t u) : MicroReaches s u := by
  obtain ⟨n, hn⟩ := h
  induction n generalizing s with
  | zero =>
    cases hn
    exact h'
  | succ n ih =>
    rw [microRun] at hn
    cases hs : microStep s with
    | next s1 =>
      rw [hs] at hn
      exact .head hs (ih hn)
    | fault r =>
      rw [hs] at hn
      cases hn
    | refused r =>
      rw [hs] at hn
      cases hn

/-- 10_state.md section 10 along a run of micro-steps. -/
theorem MicroReaches.inv {s t : State} (h : MicroReaches s t) (hs : s.Inv) : t.Inv := by
  obtain ⟨n, hn⟩ := h
  induction n generalizing s with
  | zero =>
    cases hn
    exact hs
  | succ n ih =>
    obtain ⟨s1, hstep, hgood⟩ := microStep_good hs
    rw [microRun, hstep] at hn
    exact ih hgood.inv hn

/-! ### The payload, byte by byte -/

theorem getElem?_of_drop_eq_cons {bs rest : List Byte} {k : Nat} {b : Byte} (h : bs.drop k = b :: rest) :
    bs[k]? = some b ∧ bs.drop (k + 1) = rest ∧ (k + 1 < bs.length ↔ rest ≠ []) := by
  have hlen : bs.length - k = rest.length + 1 := by simpa using congrArg List.length h
  refine ⟨?_, by simpa [List.drop_drop] using congrArg (List.drop 1) h, ?_⟩
  · rw [← Nat.add_zero k, ← List.getElem?_drop, h]
    rfl
  · rw [← List.length_pos_iff]
    omega

/-- All byte writes succeed: the loop ends past the last byte. -/
theorem microReaches_payload_ok {src : CmdSrc} (bs : List Byte) : ∀ {s : State} {k : Nat}, bs ≠ [] →
    s.phase = .txByte → s.cmdSrc = some src → s.cmdIdx = some k → (payloadOf s.cfg s.fb src).drop k = bs →
    s.env.busOk bs.length → ∃ k', MicroReaches s { s.wrote bs with cmdIdx := some k', phase := .txEnd } := by
  induction bs with
  | nil => exact fun h => absurd rfl h
  | cons b bs ih =>
    intro s k _ hp hsrc hk hbs hok
    obtain ⟨hb, hrest, hmore⟩ := getElem?_of_drop_eq_cons hbs
    have hwrite : s.env.busAt 0 = .ok := hok 0 (Nat.succ_pos _)
    have hstep : microStep s = microByte s := by simp only [microStep, hp]
    rw [microByte_eq hsrc hk hb, if_neg (by simp [hwrite])] at hstep
    by_cases hlast : bs = []
    · rw [if_neg (by simp [hmore, hlast])] at hstep
      subst hlast
      exact ⟨k + 1, .single hstep⟩
    · rw [if_pos (hmore.2 hlast)] at hstep
      have hok' : (s.wrote [b]).env.busOk bs.length := (Env.busOk_add.1 (Nat.add_comm 1 bs.length ▸ hok)).2
      obtain ⟨k', hrun⟩ := ih (s := { s.wrote [b] with cmdIdx := some (k + 1), phase := .txByte }) hlast rfl hsrc rfl
        hrest hok'
      exact ⟨k', .head hstep (by simpa [State.wrote, Nat.add_comm 1] using hrun)⟩

/-- The n-th byte write fails: the loop is left at it. -/
theorem microReaches_payload_err {src : CmdSrc} (bs : List Byte) : ∀ {s : State} {k n : Nat},
    s.phase = .txByte → s.cmdSrc = some src → s.cmdIdx = some k → (payloadOf s.cfg s.fb src).drop k = bs →
    s.env.failsAt n → n < bs.length →
    ∃ k', MicroReaches s { s.wrote (bs.take (n + 1)) with cmdIdx := some k', phase := .txAbort } := by
  induction bs with
  | nil => exact fun _ _ _ _ _ h => absurd h (Nat.not_lt_zero _)
  | cons b bs ih =>
    intro s k n hp hsrc hk hbs hfail hn
    obtain ⟨hb, hrest, hmore⟩ := getElem?_of_drop_eq_cons hbs
    have hstep : microStep s = microByte s := by simp only [microStep, hp]
    rw [microByte_eq hsrc hk hb] at hstep
    rcases n with _ | n
    · rw [if_pos hfail.2] at hstep
      refine ⟨k, .single ?_⟩
      rw [hstep, ← hk]
      rfl
    · have hwrite : s.env.busAt 0 = .ok := hfail.1 0 (Nat.succ_pos n)
      have hn' : n < bs.length := Nat.lt_of_succ_lt_succ hn
      rw [if_neg (by simp [hwrite]), if_pos (hmore.2 (List.ne_nil_of_length_pos (Nat.zero_lt_of_lt hn')))] at hstep
      have hfail' : (s.wrote [b]).env.failsAt n := Env.failsAt_dropBus (Nat.add_comm n 1 ▸ hfail)
      obtain ⟨k', hrun⟩ := ih (s := { s.wrote [b] with cmdIdx := some (k + 1), phase := .txByte }) rfl hsrc rfl
        hrest hfail' hn'
      exact ⟨k', .head hstep (by simpa [State.wrote, Nat.add_comm 1] using hrun)⟩

/-- The two ends of the loop over a whole payload. -/
theorem MicroReaches.payload_ok {s t : State} {src : CmdSrc} (hp : s.phase = .txByte) (hsrc : s.cmdSrc = some src)
    (hk : s.cmdIdx = some 0) (hne : payloadOf s.cfg s.fb src ≠ [])
    (hok : s.env.busOk (payloadOf s.cfg s.fb src).length)
    (h : ∀ k, MicroReaches { s.wrote (payloadOf s.cfg s.fb src) with cmdIdx := some k, phase := .txEnd } t) :
    MicroReaches s t := by
  obtain ⟨k, hloop⟩ := microReaches_payload_ok _ hne hp hsrc hk rfl hok
  exact hloop.trans (h k)

theorem MicroReaches.payload_err {s t : State} {src : CmdSrc} {n : Nat} (hp : s.phase = .txByte)
    (hsrc : s.cmdSrc = some src) (hk : s.cmdIdx = some 0) (hfail : s.env.failsAt n)
    (hn : n < (payloadOf s.cfg s.fb src).length)
    (h : ∀ k, MicroReaches
      { s.wrote ((payloadOf s.cfg s.fb src).take (n + 1)) with cmdIdx := some k, phase := .txAbort } t) :
    MicroReaches s t := by
  obtain ⟨k, hloop⟩ := microReaches_payload_err _ hp hsrc hk rfl hfail hn
  exact hloop.trans (h k)

/-! ### A panel command -/

/-- From a command to the position after its opcode byte. -/
theorem microReaches_opcode {s : State} {p : PanelCmd} (hp : s.phase = .command p) :
    MicroReaches s { s.cut (commandOf s.cfg s.fb p) 0 with
      cmdOp := some (s.cfg.opcode p)
      cmdSrc := some (cmdSrcOf p)
      cmdIdx := some 0
      phase := if s.env.busAt 0 = .err then .txAbort
        else if (commandOf s.cfg s.fb p).payload = [] then .txEnd else .txData } := by
  have hstart : microStep s = .next (microCommand p s) := by simp only [microStep, hp]
  refine .head hstart (.head rfl (.single ?_))
  refine (microOpcode_eq rfl rfl).trans ?_
  simp [microCommand, State.setLine, State.wrote, State.cut, sentEvents, commandOf_eq]
  rfl

theorem cut_succ {s : State} {cmd : Command} {n : Nat} (hn : n < cmd.payload.length) :
    ((s.cut cmd 0).setLine .dc (dcData s.cfg)).wrote (cmd.payload.take (n + 1)) = s.cut cmd (n + 1) := by
  have hlen : (cmd.payload.take (n + 1)).length = n + 1 := List.length_take_of_le hn
  simp [State.cut, State.setLine, State.wrote, sentEvents, hlen, -List.length_take, -List.map_take, Nat.add_comm]

theorem sent_of_payload {s : State} {cmd : Command} (h : cmd.payload ≠ []) :
    (((s.cut cmd 0).setLine .dc (dcData s.cfg)).wrote cmd.payload).setLine .cs (csIdle s.cfg) = s.sent cmd := by
  simp [State.cut, State.setLine, State.wrote, State.sent, transmitEvents, sentEvents, dcAfter, h, Nat.add_comm]

theorem sent_of_no_payload {s : State} {cmd : Command} (h : cmd.payload = []) :
    (s.cut cmd 0).setLine .cs (csIdle s.cfg) = s.sent cmd := by
  simp [State.cut, State.setLine, State.sent, transmitEvents, sentEvents, dcAfter, h]

theorem microReaches_command_ok {s : State} {p : PanelCmd} (hp : s.phase = .command p)
    (hok : s.env.busOk ((commandOf s.cfg s.fb p).payload.length + 1)) :
    MicroReaches s { (s.sent (commandOf s.cfg s.fb p)).clearCommand with phase := phaseAfter p } := by
  have hopcode := microReaches_opcode hp
  have hwrite : s.env.busAt 0 = .ok := hok 0 (Nat.succ_pos _)
  by_cases hnil : (commandOf s.cfg s.fb p).payload = []
  · rw [if_neg (by simp [hwrite]), if_pos hnil] at hopcode
    refine hopcode.trans (.single ((microEnd_eq rfl).trans ?_))
    rw [← sent_of_no_payload hnil, cmdOfSrc_cmdSrcOf]
    rfl
  · rw [if_neg (by simp [hwrite]), if_neg hnil] at hopcode
    refine hopcode.trans (.head rfl ?_)
    have hok' : (s.env.dropBus 1).busOk (commandOf s.cfg s.fb p).payload.length :=
      (Env.busOk_add.1 (Nat.add_comm _ 1 ▸ hok)).2
    refine .payload_ok rfl rfl rfl hnil hok' fun k => .single ((microEnd_eq rfl).trans ?_)
    rw [← sent_of_payload hnil, cmdOfSrc_cmdSrcOf]
    rfl

theorem microReaches_command_err {s : State} {p : PanelCmd} {n : Nat} (hp : s.phase = .command p)
    (hfail : s.env.failsAt n) (hn : n < (commandOf s.cfg s.fb p).payload.length + 1) :
    MicroReaches s (s.cut (commandOf s.cfg s.fb p) n).takeBusFault := by
  have hopcode := microReaches_opcode hp
  rcases n with _ | n
  · rw [if_pos hfail.2] at hopcode
    exact hopcode.trans (.single rfl)
  · have hwrite : s.env.busAt 0 = .ok := hfail.1 0 (Nat.succ_pos n)
    have hn' : n < (commandOf s.cfg s.fb p).payload.length := Nat.lt_of_succ_lt_succ hn
    rw [if_neg (by simp [hwrite]), if_neg (List.ne_nil_of_length_pos (Nat.zero_lt_of_lt hn'))] at hopcode
    refine hopcode.trans (.head rfl ?_)
    have hfail' : (s.env.dropBus 1).failsAt n := Env.failsAt_dropBus (Nat.add_comm n 1 ▸ hfail)
    refine .payload_err rfl rfl rfl hfail' hn' fun k => .single ?_
    rw [← cut_succ hn']
    rfl

/-- Settles O52: the transaction whole, or cut at the first failing byte. -/
theorem sequencerRefinesTheCommands : Obligations.SequencerRefinesTheCommands := by
  intro s p hp
  rcases s.env.ok_or_fails ((commandOf s.cfg s.fb p).payload.length + 1) with hok | ⟨n, hn, hfail⟩
  · rw [exec_instr_ok hok]
    exact microReaches_command_ok hp hok
  · rw [exec_instr_err hfail hn]
    exact microReaches_command_err hp hfail hn

end Sys2Proof.Machine
end

section
/-! PROOFS of the family 'other', the sequencer against the operations (10_state.md R23): a chain of commands and
waits on one side is followed link by link on the other, up to the registers the response clears. -/

namespace Sys2Proof.Machine

/-! ### States that agree up to the position and the scratch registers -/

/-- The two states differ in PHASE, BUSY_FLAG and the scratch registers at most. -/
def State.Agrees (s s' : State) : Prop := s.toIdle = s'.toIdle

theorem State.Agrees.eq_with {s s' : State} (h : s.Agrees s') :
    s = { s' with
      busyFlag := s.busyFlag, phase := s.phase, req := s.req, elapsed := s.elapsed, timeout := s.timeout,
      acc := s.acc, cmdOp := s.cmdOp, cmdSrc := s.cmdSrc, cmdIdx := s.cmdIdx } := by
  obtain ⟨⟩ := s
  obtain ⟨⟩ := s'
  simp only [State.Agrees, State.toIdle, State.clearScratch, State.mk.injEq] at h ⊢
  tauto

theorem State.Agrees.respond {s s' : State} (h : s.Agrees s') (st : Status) (d : Word) :
    s.respond st d = s'.respond st d := by
  rw [h.eq_with]
  rfl

theorem State.Agrees.takeFault {s s' : State} (h : s.Agrees s') (r : FaultReason) (st : Status) (d : Word) :
    s.takeFault r st d = s'.takeFault r st d := by
  rw [h.eq_with]
  rfl

theorem State.Agrees.withState {s s' : State} (h : s.Agrees s') (p : PanelState) :
    State.Agrees { s with state := p } { s' with state := p } := by
  rw [h.eq_with]
  rfl

theorem State.Agrees.withAcc {s s' : State} (h : s.Agrees s') (a : Option Word) (p : PanelState) :
    State.Agrees { s with acc := a, state := p } { s' with state := p } := h.withState p

theorem State.Agrees.resetPulse {s s' : State} (h : s.Agrees s') : (resetPulse s).Agrees (resetPulse s') := by
  rw [h.eq_with]
  rfl

theorem State.Agrees.cfg {s s' : State} (h : s.Agrees s') : s.cfg = s'.cfg :=
  show s.toIdle.cfg = s'.toIdle.cfg from congrArg State.cfg h

theorem State.Agrees.fb {s s' : State} (h : s.Agrees s') : s.fb = s'.fb :=
  show s.toIdle.fb = s'.toIdle.fb from congrArg State.fb h

theorem State.Agrees.env {s s' : State} (h : s.Agrees s') : s.env = s'.env :=
  show s.toIdle.env = s'.toIdle.env from congrArg State.env h

theorem State.Agrees.polled {s s' : State} (h : s.Agrees s') (n : Nat) (es : List Event) :
    (s.polled n es).Agrees (s'.polled n es) := by
  rw [h.eq_with]
  rfl

theorem State.Agrees.delayed {s s' : State} (h : s.Agrees s') (es : List Event) (us : Nat) :
    ((s.polled 1 es).delayUs us).Agrees (s'.polled 1 (es ++ [.delay us])) := by
  rw [h.eq_with]
  simp [State.Agrees, State.polled, State.delayUs, State.emit, State.toIdle, State.clearScratch]

theorem State.Agrees.sent {s s' : State} (h : s.Agrees s') (cmd : Command) : (s.sent cmd).Agrees (s'.sent cmd) := by
  rw [h.eq_with]
  rfl

theorem State.Agrees.takeBusFault_cut {s s' : State} (h : s.Agrees s') (cmd : Command) (n : Nat) :
    (s.cut cmd n).takeBusFault = (s'.cut cmd n).takeBusFault := by
  rw [h.eq_with]
  rfl

/-! ### A command of an operation -/

/-- One link: the micro-steps of the command, then those of the rest, from its position and with ACC kept. -/
theorem MicroReaches.commandThen {p : PanelCmd} {rest : State → State} {s s' : State} (h : s.Agrees s')
    (hp : s.phase = .command p)
    (hrest : ∀ u u', u.Agrees u' → u.phase = phaseAfter p → u.acc = s.acc → u'.cfg = s'.cfg → MicroReaches u (rest u')) :
    MicroReaches s (commandThen p rest s') := by
  have hcmd : commandOf s'.cfg s'.fb p = commandOf s.cfg s.fb p := by rw [h.cfg, h.fb]
  rcases s.env.ok_or_fails ((commandOf s.cfg s.fb p).payload.length + 1) with hok | ⟨n, hn, hfail⟩
  · rw [commandThen_ok rest (by rw [← h.env, hcmd]; exact hok), hcmd]
    exact (microReaches_command_ok hp hok).trans (hrest _ _ (h.sent _) rfl rfl rfl)
  · rw [commandThen_err rest (by rw [← h.env]; exact hfail) (by rw [hcmd]; exact hn), hcmd, ← h.takeBusFault_cut]
    exact microReaches_command_err hp hfail hn

/-! ### A wait of an operation -/

/-- The lines after wait `w`, by its result (42_busy_gate.md R150). -/
def afterWait (w : Wait) (u : State) : WaitResult → Host.Outcome State Fault Refusal
  | .ok e => microWaitOk w e u
  | .timedOut => .next (microWaitTimedOut w u)

/-- The sequencer at `s` reaches the end of wait `w` with result `r`, at a micro-step that is the lines after it, in a
state that agrees with `u'` and has the ACC of `s`. -/
def WaitEnds (w : Wait) (s : State) (r : WaitResult) (u' : State) : Prop :=
  ∃ x u, MicroReaches s x ∧ u.Agrees u' ∧ u.acc = s.acc
    ∧ microStep x = afterWait w u r

theorem WaitEnds.head {w : Wait} {s t u' : State} {r : WaitResult} (h : MicroReaches s t) (hacc : t.acc = s.acc)
    (h' : WaitEnds w t r u') : WaitEnds w s r u' := by
  obtain ⟨x, u, hx, hu, hua, hend⟩ := h'
  exact ⟨x, u, h.trans hx, hu, hua.trans hacc, hend⟩

/-- The poll loop from a sample on, `e` counted so far. -/
theorem waitEnds_waitLoop {w : Wait} {bound : Word} {c : Config} (hpoll : 1 ≤ c.pollDelayUs) (fuel : Nat) :
    ∀ {s s' : State} {e : Word}, s.Agrees s' → s'.cfg = c → s.phase = .waitSample w → s.elapsed = some e →
      s.timeout = some bound → e.toNat ≤ bound.toNat → bound.toNat < e.toNat + fuel * c.pollDelayUs →
      WaitEnds w s (waitLoop bound fuel e s').1 (waitLoop bound fuel e s').2 := by
  induction fuel with
  | zero =>
    intro s s' e _ _ _ _ _ hle hlt
    omega
  | succ fuel ih =>
    rintro s s' e h rfl hp he hbound hle hlt
    have hstep : microStep s = microWaitSample w s := by simp only [microStep, hp]
    rw [microWaitSample_eq he hbound, h.env, h.cfg] at hstep
    rw [waitLoop_succ]
    by_cases hidle : s'.env.busyAt 0 = busyIdle s'.cfg
    · rw [if_pos hidle] at hstep ⊢
      exact ⟨s, _, .refl s, h.polled 1 _, rfl, hstep⟩
    · by_cases hover : e.toNat + s'.cfg.pollDelayUs > bound.toNat
      · rw [if_neg hidle, if_pos hover] at hstep ⊢
        exact ⟨s, _, .refl s, h.polled 1 _, rfl, hstep⟩
      · rw [if_neg hidle, if_neg hover] at hstep ⊢
        have hsum := durationWord_add (e := e) (bound := bound) (p := s'.cfg.pollDelayUs) (by omega)
        have hdelay : microStep { s.polled 1 [.sample (s'.env.busyAt 0)] with phase := .waitDelay w }
            = .next { (s.polled 1 [.sample (s'.env.busyAt 0)]).delayUs s'.cfg.pollDelayUs with
                elapsed := some (e + durationWord s'.cfg.pollDelayUs), phase := .waitSample w } := by
          rw [← h.cfg]
          exact microWaitDelay_eq he
        have hmul : (fuel + 1) * s'.cfg.pollDelayUs = fuel * s'.cfg.pollDelayUs + s'.cfg.pollDelayUs := Nat.succ_mul ..
        exact .head (.head hstep (.single hdelay)) rfl
          (ih (h.delayed [.sample (s'.env.busyAt 0)] s'.cfg.pollDelayUs) rfl rfl rfl hbound (by omega) (by omega))

/-- A wait from its start, the lines before the poll loop done on both sides (`microWaitStart_eq`). -/
theorem waitEnds_waitReady {w : Wait} {bound : Word} {s s' u' : State} {r : WaitResult} (hp : s.phase = .waitStart w)
    (hbound : waitBound w s = some bound) (hpoll : 1 ≤ s'.cfg.pollDelayUs)
    (h : State.Agrees { s with state := if w = .refreshReady then .refreshing else s.state } s')
    (hr : waitReady bound s' = (r, u')) : WaitEnds w s r u' := by
  have hstart : microStep s = microWaitStart w s := by simp only [microStep, hp]
  have hfuel : bound.toNat < (0 : Word).toNat + (bound.toNat / s'.cfg.pollDelayUs + 1) * s'.cfg.pollDelayUs := by
    simpa [Nat.mul_comm] using Nat.lt_mul_div_succ bound.toNat hpoll
  have hloop := waitEnds_waitLoop hpoll (bound.toNat / s'.cfg.pollDelayUs + 1)
    (s := { s with
      state := if w = .refreshReady then .refreshing else s.state
      timeout := some bound
      elapsed := some 0
      phase := .waitSample w }) h rfl rfl rfl rfl (Nat.zero_le _) hfuel
  rw [waitReady] at hr
  rw [hr] at hloop
  exact .head (.single (hstart.trans (microWaitStart_eq hbound))) rfl hloop

theorem waitReady_cfg (bound : Word) (s : State) : (waitReady bound s).2.cfg = s.cfg := by
  obtain ⟨n, es, h, -⟩ := waitReady_shape bound s
  rw [h]
  rfl

/-! ### The operations -/

/-- The lines after a timed-out wait of the protocol. -/
theorem microWaitTimedOut_eq {u u' : State} (w : Wait) (hw : w ≠ .host) (h : u.Agrees u') :
    microWaitTimedOut w u = u'.takeTimeout (timeoutReason w) := by
  cases w with
  | host => exact absurd rfl hw
  | resetReady | configReady | refreshReady => exact h.takeFault _ _ _

theorem microReaches_initEnd {s s' : State} {e : Word} (h : s.Agrees s') (hpoll : 1 ≤ s'.cfg.pollDelayUs)
    (hp : s.phase = .waitStart .configReady) (hacc : s.acc = some e) : MicroReaches s (initEnd e s') := by
  have hbound : waitBound .configReady s = some (durationWord s'.cfg.initTimeoutUs) := by rw [← h.cfg]; rfl
  rw [initEnd]
  rcases hw : waitReady (durationWord s'.cfg.initTimeoutUs) s' with ⟨e2 | _, u'⟩ <;>
    obtain ⟨x, u, hx, hu, hua, hend⟩ := waitEnds_waitReady hp hbound hpoll h hw
  · rw [afterWait, microWaitOk_configReady e2 (hua.trans hacc), (hu.withAcc _ .ready).respond] at hend
    exact hx.trans (.single hend)
  · rw [afterWait, microWaitTimedOut_eq .configReady nofun hu] at hend
    exact hx.trans (.single hend)

theorem microReaches_updateEnd {s s' : State} (h : s.Agrees s') (hpoll : 1 ≤ s'.cfg.pollDelayUs)
    (hp : s.phase = .waitStart .refreshReady) : MicroReaches s (updateEnd s') := by
  have hbound : waitBound .refreshReady s = some (durationWord s'.cfg.refreshTimeoutUs) := by rw [← h.cfg]; rfl
  rw [updateEnd]
  rcases hw : waitReady (durationWord s'.cfg.refreshTimeoutUs) { s' with state := .refreshing } with ⟨e | _, u'⟩ <;>
    obtain ⟨x, u, hx, hu, -, hend⟩ := waitEnds_waitReady (s' := { s' with state := .refreshing }) hp hbound hpoll (h.withState .refreshing) hw
  · rw [afterWait, microWaitOk, (hu.withAcc _ .ready).respond] at hend
    exact hx.trans (.single hend)
  · rw [afterWait, microWaitTimedOut_eq .refreshReady nofun hu] at hend
    exact hx.trans (.single hend)

theorem microReaches_initBody {s s' : State} (h : s.Agrees s') (hpoll : 1 ≤ s'.cfg.pollDelayUs)
    (hp : s.phase = .pulseStart) (hacc : s.acc = some 0) : MicroReaches s (initBody s') := by
  have hstart : microStep s = .next { s.setLine .rst s.cfg.rstAssertLevel with phase := .pulseHold } := by
    simp only [microStep, hp]
  have hpulse : MicroReaches s { resetPulse s with phase := .waitStart .resetReady } :=
    .head hstart (.head rfl (.single rfl))
  have hbound : waitBound .resetReady { resetPulse s with phase := .waitStart .resetReady }
      = some (durationWord s'.cfg.initTimeoutUs) := by rw [← h.cfg]; rfl
  rcases hw : waitReady (durationWord s'.cfg.initTimeoutUs) (resetPulse s') with ⟨e | _, u'⟩ <;>
    obtain ⟨x, u, hx, hu, hua, hend⟩ := waitEnds_waitReady (s' := resetPulse s') rfl hbound hpoll h.resetPulse hw
  · have hcfg : u'.cfg = s'.cfg := (congrArg (·.2.cfg) hw).symm.trans (waitReady_cfg ..)
    rw [afterWait, microWaitOk_resetReady e (hua.trans hacc), zero_add] at hend
    rw [initBody_of_ready hw]
    refine hpulse.trans (hx.trans (.head hend ?_))
    refine .commandThen hu rfl fun u1 u1' h1 hp1 hacc1 hcfg1 => .commandThen h1 hp1 fun u2 u2' h2 hp2 hacc2 hcfg2 => ?_
    exact microReaches_initEnd h2 (by rw [hcfg2, hcfg1, hcfg]; exact hpoll) hp2 (hacc2.trans hacc1)
  · rw [afterWait, microWaitTimedOut_eq .resetReady nofun hu] at hend
    simp only [initBody, hw]
    exact hpulse.trans (hx.trans (.single hend))

theorem microReaches_updateBody {s s' : State} (h : s.Agrees s') (hpoll : 1 ≤ s'.cfg.pollDelayUs)
    (hp : s.phase = .command .dataBlack) : MicroReaches s (updateBody s') := by
  rw [updateBody_eq_chain]
  refine .commandThen h hp fun u1 u1' h1 hp1 _ hcfg1 => .commandThen h1 hp1 fun u2 u2' h2 hp2 _ hcfg2 => ?_
  refine .commandThen h2 hp2 fun u3 u3' h3 hp3 _ hcfg3 => ?_
  exact microReaches_updateEnd h3 (by rw [hcfg3, hcfg2, hcfg1]; exact hpoll) hp3

theorem microReaches_powerOffBody {s s' : State} (h : s.Agrees s') (hp : s.phase = .command .powerDown) :
    MicroReaches s (powerOffBody s') := by
  rw [powerOffBody_eq_chain]
  refine .commandThen h hp fun u u' hu hpu _ _ => .single ?_
  have hfinish : microStep u = .next ({ u with state := .poweredDown }.respond .ok 0) := by simp only [microStep, hpu]; rfl
  rw [hfinish, (hu.withState .poweredDown).respond]

theorem microReaches_waitReady {s s' : State} {t : Word} (h : s.Agrees s') (hpoll : 1 ≤ s'.cfg.pollDelayUs)
    (hp : s.phase = .waitStart .host) (ht : s.req.map reqTimeout = some t) :
    ∃ u, MicroReaches s u ∧ exec (.waitReady t) s' = .next u := by
  rcases hw : waitReady t s' with ⟨e | _, u'⟩ <;>
    obtain ⟨x, u, hx, hu, -, hend⟩ := waitEnds_waitReady hp ht hpoll h hw
  · refine ⟨_, hx.trans (.single hend), ?_⟩
    simp only [exec, execWaitReady, hw, ← hu.respond]
    rfl
  · refine ⟨_, hx.trans (.single hend), ?_⟩
    simp only [exec, execWaitReady, hw, ← hu.respond]
    rfl

/-- The timeout operand in REQ is that of the decoded operation. -/
theorem reqTimeout_of_decode {w : ReqWord} {t : Word} (h : decodeRequest w = .ok (.waitReady t)) : reqTimeout w = t := by
  have hfields := decodeRequest_eq_ok_iff.1 h
  simp only [Instr.requestFields, Option.some.injEq] at hfields
  rw [reqTimeout_eq, ← hfields, extractLsb'_append_extractLsb']

/-- Settles O51: each operation is its chain of commands and waits on both sides. -/
theorem sequencerRefinesTheOperations : Obligations.SequencerRefinesTheOperations := by
  intro s w i h hphase hi
  have hpoll : 1 ≤ (s.accept w).cfg.pollDelayUs := (Config.wf_wait_init h.cfgWf).1
  cases i with
  | init =>
    by_cases hs : (s.accept w).state = .uninitialized
    · rw [exec_init_admitted hs]
      obtain ⟨n, hn⟩ := microReaches_initBody (s' := s.accept w) (s := { s.accept w with acc := some 0, phase := .pulseStart })
        rfl hpoll rfl rfl
      exact ⟨n, _, if_pos hs, hn⟩
    · exact ⟨0, _, if_neg hs, (exec_init_rejected hs).symm⟩
  | update =>
    by_cases hs : (s.accept w).state = .ready
    · rw [exec_update_admitted hs]
      obtain ⟨n, hn⟩ := microReaches_updateBody (s' := s.accept w)
        (s := { s.accept w with phase := .command .dataBlack }) rfl hpoll rfl
      exact ⟨n, _, if_pos hs, hn⟩
    · exact ⟨0, _, if_neg hs, (exec_update_rejected hs).symm⟩
  | powerOff =>
    by_cases hs : (s.accept w).state = .ready
    · rw [exec_powerOff_admitted hs]
      obtain ⟨n, hn⟩ := microReaches_powerOffBody (s' := s.accept w)
        (s := { s.accept w with phase := .command .powerDown }) rfl rfl
      exact ⟨n, _, if_pos hs, hn⟩
    · exact ⟨0, _, if_neg hs, (exec_powerOff_rejected hs).symm⟩
  | setPixel x y col =>
    obtain ⟨t, _, _, hexec, -⟩ := execSetPixel_performs x y col (s.accept w)
    exact ⟨0, t, hexec, hexec.symm⟩
  | clear col => exact ⟨0, _, rfl, rfl⟩
  | getPixel x y =>
    obtain ⟨t, _, _, hexec, -⟩ := execGetPixel_performs x y (s.accept w)
    exact ⟨0, t, hexec, hexec.symm⟩
  | waitReady t =>
    obtain ⟨u, ⟨n, hn⟩, hexec⟩ := microReaches_waitReady (t := t) (s' := s.accept w)
      (s := { s.accept w with phase := .waitStart .host }) rfl hpoll rfl (congrArg some (reqTimeout_of_decode hi))
    exact ⟨n, _, rfl, hn.trans hexec.symm⟩
  | setResolution | loadWaveformTable | beginDataTransferBlack | beginDataTransferAccent | refresh | powerDown =>
    cases decodeRequest_eq_ok_iff.1 hi

/-! ### The status output inside an UPDATE -/

/-- A command of a chain whose byte writes all succeed. -/
theorem microReaches_command_of_busOk {s : State} {p : PanelCmd} {cmds : List Command} (hp : s.phase = .command p)
    (h : s.env.busOk (wireLength (commandOf s.cfg s.fb p :: cmds))) :
    ∃ u, MicroReaches s u ∧ u.phase = phaseAfter p ∧ u.cfg = s.cfg ∧ u.fb = s.fb ∧ u.env.busOk (wireLength cmds) := by
  obtain ⟨hfirst, hrest⟩ := Env.busOk_add.1 h
  exact ⟨_, microReaches_command_ok hp hfirst, rfl, rfl, rfl, hrest⟩

/-- UPDATE from its start to its wait. -/
theorem microReaches_refreshing {s : State} (hp : s.phase = .command .dataBlack)
    (hok : s.env.busOk (wireLength (updateCommands s.cfg s.fb))) :
    ∃ t, MicroReaches s t ∧ t.phase = .waitSample .refreshReady ∧ t.state = .refreshing := by
  obtain ⟨s1, h1, hp1, hcfg1, hfb1, hok1⟩ := microReaches_command_of_busOk hp hok
  obtain ⟨s2, h2, hp2, hcfg2, hfb2, hok2⟩ := microReaches_command_of_busOk hp1 (by rw [hcfg1, hfb1]; exact hok1)
  obtain ⟨s3, h3, hp3, -⟩ := microReaches_command_of_busOk hp2 (by rw [hcfg2, hfb2, hcfg1]; exact hok2)
  have hstart : microStep s3 = microWaitStart .refreshReady s3 := by simp only [microStep, hp3, phaseAfter]
  exact ⟨_, h1.trans (h2.trans (h3.trans (.single (hstart.trans (microWaitStart_eq rfl))))), rfl, rfl⟩

/-- The status output of an invariant state that is refreshing at some position. -/
theorem State.Inv.statusOut_of_refreshing {t : State} (h : t.Inv) (hp : t.phase ≠ .idle) (hs : t.state = .refreshing) :
    t.statusOut = 0b1000010 := by
  have hbusy : t.busyFlag = true := h.busy.2 hp
  have hreason : t.faultReason = .none := by
    by_contra hne
    cases hs.symm.trans (h.reason.1 hne)
  simp only [State.statusOut, hbusy, hreason, hs]
  rfl

/-- Settles O53: the three transactions, then the line before the refresh wait. -/
theorem refreshingShowsOnTheStatusOutput : Obligations.RefreshingShowsOnTheStatusOutput := by
  intro s w h hphase hs hok
  have hinv : State.Inv { s.accept w with phase := .command .dataBlack } :=
    { cfgWf := h.cfgWf
      fbWf := h.fbWf
      reason := h.reason
      busy := iff_of_true rfl nofun
      csLevel := show s.cs = csIdle s.cfg from h.csLevel_of_phase hphase
      rstLevel := show s.rst = rstIdle s.cfg from h.rstLevel_of_phase hphase
      position := ⟨hs, trivial⟩ }
  obtain ⟨t, ht, hpt, hst⟩ :=
    microReaches_refreshing (s := { s.accept w with phase := .command .dataBlack }) rfl hok
  have hstatus := (ht.inv hinv).statusOut_of_refreshing (by rw [hpt]; nofun) hst
  obtain ⟨n, hn⟩ := ht
  exact ⟨n, _, t, if_pos hs, hn, hstatus⟩

end Sys2Proof.Machine
end
